-- ==== Sys2Proof/Word.lean ====
section
/-! DEFINITION. The widths of the block's values (spec 00_scope R9, R10). -/

namespace Sys2Proof

/-- u8 (R10). -/
abbrev Byte := BitVec 8

/-- u16 (R10). -/
abbrev Word16 := BitVec 16

/-- u32 (R10), also the pattern `f32bits`. -/
abbrev Word32 := BitVec 32

/-- u64 (R10), also the pattern `f64bits`. -/
abbrev Word64 := BitVec 64

/-- The 10-bit transport event word (30_encoding R100). -/
abbrev EventWord := BitVec 10

end Sys2Proof
end

