-- ==== Sys2Proof/Phase.lean ====
section
/-! DEFINITION. The framing state (10_state R22): the block's analogue of a program counter. -/

namespace Sys2Proof

/-- The legal arguments of `Header{pos}`: 3 .. 27 (R22). -/
abbrev HeaderPos := { p : Nat // 3 ≤ p ∧ p ≤ 27 }

/-- The legal arguments of `Payload{remaining}`: 1 .. 65535 (R22). -/
abbrev Remaining := { r : Nat // 1 ≤ r ∧ r ≤ 65535 }

/-- `S.phase` (R22). "No other value is legal; a model's type admits only these." -/
inductive Phase
  /-- `pos` sync bytes of a candidate frame have matched. -/
  | sync (pos : Fin 3)
  /-- The next byte is frame offset `pos`, inside the header. -/
  | header (pos : HeaderPos)
  /-- `remaining` payload bytes are still to arrive. -/
  | payload (remaining : Remaining)
  /-- `pos` bytes of the 4-byte wire CRC have arrived. -/
  | crc (pos : Fin 4)
  deriving DecidableEq, Repr

end Sys2Proof
end

