-- ==== Sys2Proof/Config.lean ====
section
/-! DEFINITION. The configuration record C (00_scope R7), the transport's events (44_reader R260) and the
free values: what the spec leaves to the configuration or to a draw. The default values of the parameters are
in Machine/Defaults.lean. -/

namespace Sys2Proof

/-- `CRC_POLICY` (R3, R7). There is no disabled mode (42_payload_validate R184). -/
inductive CrcPolicy
  | strict
  | lenient
  deriving DecidableEq, Repr

/-- One answer of the transport to one request (44_reader R260). -/
inductive TransportEvent
  | byte (v : Byte)
  | timeout
  | fail
  deriving DecidableEq, Repr, Inhabited

/-- The names of the receiver-status flags (30_encoding R95), those of the tracking-status fields (R97), and
`other k` for a name only a configuration's own table uses. -/
inductive FieldName
  | errorFlag | temperatureWarning | voltageSupplyWarning | antennaNotPowered | reserved4 | antennaOpen
  | antennaShorted | cpuOverload | com1Overrun | com2Overrun | com3Overrun | usbOverrun | reserved12 | reserved13
  | reserved14 | rf1AgcFault | reserved16 | rf2AgcFault | almanacUtcFlag | positionSolutionFlag
  | positionFixedFlag | clockSteeringStatus | clockModelFlag | externalOscillatorFlag | softwareResourceFlag
  | reserved25 | reserved26 | reserved27 | reserved28 | auxiliary3Flag | auxiliary2Flag | auxiliary1Flag
  | trackingState | svChannel | phaseLock | parityKnown | codeLock | correlatorType | satelliteSystem
  | reserved19 | grouping | signalType | fec | primaryL1 | halfCycleAdded | reserved29 | prnLock
  | channelAssignment
  | other (k : Nat)
  deriving DecidableEq, Repr

/-- One entry (name, offset, width) of a bit table (43_decoder R206). -/
structure BitSlice where
  name : FieldName
  offset : Nat
  width : Nat
  deriving DecidableEq, Repr

/-- A table T of UNPACK (R206); `TRACKSTATUS_TABLE` is one (R7). -/
abbrev BitTable := List BitSlice

/-- One entry (name, bit) of `RXSTATUS_TABLE` (R7, R95). -/
structure FlagBit where
  name : FieldName
  bit : Nat
  deriving DecidableEq, Repr

/-- The widths a status, type or satellite-count field may have in a `LAYOUT`: the source gives none, so the
width is part of the layout parameter (30_encoding R81; log 15). -/
inductive UWidth
  | u8
  | u16
  | u32
  deriving DecidableEq, Repr

/-- A field whose width is part of the layout: (width, payload offset). -/
structure UField where
  width : UWidth
  off : Nat
  deriving DecidableEq, Repr

/-- A "(not read)" row of a layout's fixed part: `size` bytes at payload offset `off`. Such a row is read by
nobody, but it belongs to the fixed part, whose end `min_len` measures (R92, R94, R204; log 14). -/
structure Span where
  off : Nat
  size : Nat
  deriving DecidableEq, Repr

/-- The payload offsets of BestPos (30_encoding R86); the f64 and f32 types are the source's. -/
structure BestPosLayout where
  solutionStatus : UField
  positionType : UField
  latitude : Nat
  longitude : Nat
  altitude : Nat
  stdevLatitude : Nat
  stdevLongitude : Nat
  stdevAltitude : Nat
  numSatsTracked : UField
  numSatsUsed : UField
  unread : List Span
  deriving DecidableEq, Repr

/-- The payload offsets of BestXyz (R87). -/
structure BestXyzLayout where
  positionStatus : UField
  positionType : UField
  positionX : Nat
  positionY : Nat
  positionZ : Nat
  positionSigmaX : Nat
  positionSigmaY : Nat
  positionSigmaZ : Nat
  velocityStatus : UField
  velocityType : UField
  velocityX : Nat
  velocityY : Nat
  velocityZ : Nat
  velocitySigmaX : Nat
  velocitySigmaY : Nat
  velocitySigmaZ : Nat
  numSatsTracked : UField
  numSatsUsed : UField
  unread : List Span
  deriving DecidableEq, Repr

/-- SatXyz: the count's offset, the group's base (R88) and the entry offsets (R89). -/
structure SatXyzLayout where
  numSatellites : Nat
  base : Nat
  unread : List Span
  prn : Nat
  x : Nat
  y : Nat
  z : Nat
  clockCorrection : Nat
  ionosphericCorrection : Nat
  troposphericCorrection : Nat
  deriving DecidableEq, Repr

/-- TrackStat: the fixed part and the group's base (R90) and the entry offsets (R91). -/
structure TrackStatLayout where
  solutionStatus : UField
  positionType : UField
  elevationCutoff : Nat
  numChannels : Nat
  base : Nat
  unread : List Span
  prn : Nat
  trackingStatus : Nat
  pseudorange : Nat
  doppler : Nat
  cn0 : Nat
  locktime : Nat
  psrResidual : Nat
  psrWeight : Nat
  deriving DecidableEq, Repr

/-- Range: the count's offset, the group's base (R92) and the entry offsets (R93). -/
structure RangeLayout where
  numObservations : Nat
  base : Nat
  unread : List Span
  prn : Nat
  pseudorange : Nat
  pseudorangeStdev : Nat
  adr : Nat
  adrStdev : Nat
  doppler : Nat
  cn0 : Nat
  locktime : Nat
  trackingStatus : Nat
  deriving DecidableEq, Repr

/-- `LAYOUT` (R7, R81). The strides are the source's and no parameter (R250). -/
structure Layout where
  bestPos : BestPosLayout
  bestXyz : BestXyzLayout
  satXyz : SatXyzLayout
  trackStat : TrackStatLayout
  range : RangeLayout
  deriving DecidableEq, Repr

/-- The configuration record C: every parameter of R7. -/
structure Config where
  sync0 : Byte
  sync1 : Byte
  sync2 : Byte
  crcPolicy : CrcPolicy
  maxBytesPerCall : Nat
  payloadCap : Nat
  msgidBestpos : Word16
  msgidRange : Word16
  msgidTrackstat : Word16
  msgidBestxyz : Word16
  msgidSatxyz : Word16
  layout : Layout
  rxStatusTable : List FlagBit
  trackStatusTable : BitTable
  deriving DecidableEq, Repr

/-- FREE VALUE (44_reader R261, 93 I9; log 4): what the transport answers to a request when the queue in State
holds no answer. The reserved event kind is not among the values (R101). -/
opaque Config.freeAnswer : Nat → TransportEvent

/-- FREE VALUE (10_state R25; log 11): what a read of the header register at a frame offset gives while the register is
unwritten, and so "holds no value". The second argument is the draw counter. -/
opaque Config.freeRegister : Nat → Nat → Word32

/-- FREE VALUE (43_decoder R211, 93 I16; log 6): the sign of the NaN that squaring a NaN gives. -/
opaque Config.freeNanSign : Nat → Bool

/-- FREE VALUE (R211, I16; log 6): the fraction, less one, of the NaN that squaring a NaN gives; a NaN's
fraction is 1 .. 2^52 - 1. -/
opaque Config.freeNanFraction : Nat → Fin 4503599627370495

end Sys2Proof
end

