-- ==== Sys2Proof/Syntax.lean ====
section
/-! DEFINITION. The block's operations: one constructor per row of spec/opcode_table.json (30_encoding R104). -/

namespace Sys2Proof

/-- One operation of the block. The operands of an operation are those its rule names; `v` is the arriving byte,
and `ignored` the bits 7:0 of an event word that carries no byte (R100). -/
inductive Instr
  /-- The host calls `decode_next()` (44_reader R262). -/
  | decodeNext
  /-- One transport request, or the end of the call at the ceiling (R263). -/
  | read
  /-- The answer `Byte(v)`: BYTE_STEP (R264). -/
  | evByte (v : Byte)
  /-- The answer `Timeout` (R267). -/
  | evTimeout (ignored : Byte)
  /-- The answer `Fail` (R268). -/
  | evFail (ignored : Byte)
  /-- The reserved event kind 11 (30_encoding R101). -/
  | evReserved (ignored : Byte)
  /-- R141. -/
  | syncMatch (v : Byte)
  /-- R142. -/
  | syncComplete (v : Byte)
  /-- R143. -/
  | syncMismatch (v : Byte)
  /-- R144. -/
  | hdrlenOk (v : Byte)
  /-- R145. -/
  | hdrlenBad (v : Byte)
  /-- R146. -/
  | hdrByte (v : Byte)
  /-- R153. -/
  | hdrLast (v : Byte)
  /-- R171. -/
  | payloadByte (v : Byte)
  /-- R172. -/
  | payloadLast (v : Byte)
  /-- R174. -/
  | crcByte (v : Byte)
  /-- R175. -/
  | crcLast (v : Byte)
  /-- R180. -/
  | frameEnd
  /-- R200 with R210; `crcOk` is DISPATCH's second operand. -/
  | dispatchBestpos (crcOk : Bool)
  /-- R200 with R240. -/
  | dispatchRange (crcOk : Bool)
  /-- R200 with R230. -/
  | dispatchTrackstat (crcOk : Bool)
  /-- R200 with R215. -/
  | dispatchBestxyz (crcOk : Bool)
  /-- R200 with R220. -/
  | dispatchSatxyz (crcOk : Bool)
  /-- R200 with R201. -/
  | dispatchUnknown (crcOk : Bool)
  /-- UNPACK(w, T) (R206). -/
  | unpack (w : Word32) (table : BitTable)
  /-- crc32(bytes) (R122). -/
  | crc32 (bytes : List Byte)
  /-- table_value(i), i at most 0xFF (R121): the operand's type admits no other. -/
  | tableValue (i : Byte)
  /-- bswap32(v) (R124). -/
  | bswap32 (v : Word32)
  /-- square64(s) of a binary32 pattern (R211). -/
  | square64 (s : Word32)
  deriving DecidableEq, Repr

end Sys2Proof
end

