-- ==== Sys2Proof/WellFormed.lean ====
section
/-! DEFINITION. Which terms of `Instr` are operations at all, whatever the state: the conditions on operands that
the opcode table's rows and the operations' rules name. Conditions on the state ("Selected when") are
`selects` in Decode.lean. -/

namespace Sys2Proof

/-- A table entry names bits of the 32-bit word that UNPACK takes (43_decoder R206), and at least one. R206 states no
such condition: it is the model's (DESIGN CHOICE, log 29). -/
def BitSlice.inWord (e : BitSlice) : Bool :=
  decide (1 ≤ e.width ∧ e.offset + e.width ≤ 32)

/-- The operands an operation may have. HDRLEN_OK is the row of v = 28 and HDRLEN_BAD that of every other v
(30_encoding R104). That the entries of UNPACK's table lie inside the word and have different names is the model's
condition, not R206's (DESIGN CHOICE, log 29); UNPACK runs on every table. -/
def Instr.wellFormed : Instr → Bool
  | .decodeNext => true
  | .read => true
  | .evByte _ => true
  | .evTimeout _ => true
  | .evFail _ => true
  | .evReserved _ => true
  | .syncMatch _ => true
  | .syncComplete _ => true
  | .syncMismatch _ => true
  | .hdrlenOk v => v == 28#8
  | .hdrlenBad v => v != 28#8
  | .hdrByte _ => true
  | .hdrLast _ => true
  | .payloadByte _ => true
  | .payloadLast _ => true
  | .crcByte _ => true
  | .crcLast _ => true
  | .frameEnd => true
  | .dispatchBestpos _ => true
  | .dispatchRange _ => true
  | .dispatchTrackstat _ => true
  | .dispatchBestxyz _ => true
  | .dispatchSatxyz _ => true
  | .dispatchUnknown _ => true
  | .unpack _ table => table.all BitSlice.inWord && decide (table.map BitSlice.name).Nodup
  | .crc32 _ => true
  | .tableValue _ => true
  | .bswap32 _ => true
  | .square64 _ => true

end Sys2Proof
end

