-- ==== Sys2Proof/Decode.lean ====
section
/-! DEFINITION. The block's decoders and encoders. It has no instruction words (30_encoding, opening): what is
decoded is the 10-bit transport event word (R100), then, with the framing state, the byte (R104, R264), and at the
end of a frame the message id (R102). Each decoder is total. -/

namespace Sys2Proof

/-! ## The transport event word (R100) -/

/-- Bits 9:8 of an event word: the event's kind. -/
def eventKind (w : EventWord) : BitVec 2 := w.extractLsb' 8 2

/-- Bits 7:0 of an event word: v, or ignored. -/
def eventLow (w : EventWord) : Byte := w.extractLsb' 0 8

/-- The event word with kind `k` and low bits `v`. -/
def eventWord (k : BitVec 2) (v : Byte) : EventWord := k ++ v

/-- What an event word spells (R100, R101). -/
def decodeEvent (w : EventWord) : Instr :=
  if eventKind w = 0#2 then .evByte (eventLow w)
  else if eventKind w = 1#2 then .evTimeout (eventLow w)
  else if eventKind w = 2#2 then .evFail (eventLow w)
  else .evReserved (eventLow w)

/-- Why bytes spell no event word. -/
inductive DecodeRefusal
  /-- An event word is held in two bytes; there are not two (log 16). Safe: nothing is decoded. -/
  | notTwoBytes
  /-- A bit above bit 9 is set, and an event word has ten bits (R100; log 16). Safe: nothing is decoded. -/
  | bitsAboveEventWord
  deriving DecidableEq, Repr

/-- An event word held in 16 bits, whose upper six bits are zero (log 16). -/
def decodeWord16 (w : Word16) : Except DecodeRefusal Instr :=
  if w.extractLsb' 10 6 = 0#6 then .ok (decodeEvent (w.extractLsb' 0 10)) else .error .bitsAboveEventWord

/-- An event word held in two bytes, the least significant first (log 16). -/
def decodeBytes : List Byte → Except DecodeRefusal Instr
  | [b0, b1] => decodeWord16 (b1 ++ b0)
  | _ => .error .notTwoBytes

/-! ## The byte operation that the framing state selects (R104, R264) -/

/-- `SYNC[p]` of the configuration (41_sync_header, opening). -/
def syncByte (c : Config) (p : Fin 3) : Byte :=
  if p.val = 0 then c.sync0 else if p.val = 1 then c.sync1 else c.sync2

/-- The one operation that BYTE_STEP(v) performs in phase `ph` (R264's table). -/
def decodeByteOp (c : Config) (ph : Phase) (v : Byte) : Instr :=
  match ph with
  | .sync p =>
    if v = syncByte c p then (if p.val = 2 then .syncComplete v else .syncMatch v) else .syncMismatch v
  | .header p =>
    if p.val = 3 then (if v = 28#8 then .hdrlenOk v else .hdrlenBad v)
    else if p.val = 27 then .hdrLast v
    else .hdrByte v
  | .payload r => if r.val = 1 then .payloadLast v else .payloadByte v
  | .crc p => if p.val = 3 then .crcLast v else .crcByte v

/-- The operation that the framing state and an event word select together (R104). -/
def decodeOperation (c : Config) (ph : Phase) (w : EventWord) : Instr :=
  if eventKind w = 0#2 then decodeByteOp c ph (eventLow w) else decodeEvent w

/-- "Selected when" of the byte operations, row by row as R104 has them; the other operations are not selected by
the framing state. -/
def selects (c : Config) (ph : Phase) : Instr → Bool
  | .syncMatch v => match ph with
    | .sync p => decide (p.val < 2) && v == syncByte c p
    | _ => false
  | .syncComplete v => match ph with
    | .sync p => decide (p.val = 2) && v == syncByte c p
    | _ => false
  | .syncMismatch v => match ph with
    | .sync p => v != syncByte c p
    | _ => false
  | .hdrlenOk v => match ph with
    | .header p => decide (p.val = 3) && v == 28#8
    | _ => false
  | .hdrlenBad v => match ph with
    | .header p => decide (p.val = 3) && v != 28#8
    | _ => false
  | .hdrByte _ => match ph with
    | .header p => decide (4 ≤ p.val ∧ p.val ≤ 26)
    | _ => false
  | .hdrLast _ => match ph with
    | .header p => decide (p.val = 27)
    | _ => false
  | .payloadByte _ => match ph with
    | .payload r => decide (2 ≤ r.val)
    | _ => false
  | .payloadLast _ => match ph with
    | .payload r => decide (r.val = 1)
    | _ => false
  | .crcByte _ => match ph with
    | .crc p => decide (p.val < 3)
    | _ => false
  | .crcLast _ => match ph with
    | .crc p => decide (p.val = 3)
    | _ => false
  | .decodeNext => false
  | .read => false
  | .evByte _ => false
  | .evTimeout _ => false
  | .evFail _ => false
  | .evReserved _ => false
  | .frameEnd => false
  | .dispatchBestpos _ => false
  | .dispatchRange _ => false
  | .dispatchTrackstat _ => false
  | .dispatchBestxyz _ => false
  | .dispatchSatxyz _ => false
  | .dispatchUnknown _ => false
  | .unpack _ _ => false
  | .crc32 _ => false
  | .tableValue _ => false
  | .bswap32 _ => false
  | .square64 _ => false

/-! ## The message id (R102, R200) -/

/-- The DISPATCH row that a message id selects, the tests in R200's order. -/
def decodeMessageId (c : Config) (id : Word16) (crcOk : Bool) : Instr :=
  if id = c.msgidBestpos then .dispatchBestpos crcOk
  else if id = c.msgidBestxyz then .dispatchBestxyz crcOk
  else if id = c.msgidSatxyz then .dispatchSatxyz crcOk
  else if id = c.msgidTrackstat then .dispatchTrackstat crcOk
  else if id = c.msgidRange then .dispatchRange crcOk
  else .dispatchUnknown crcOk

/-! ## Encoders, from the same tables -/

/-- The event word of a transport event; the ignored bits are written as zeros (R100). -/
def encodeTransport : TransportEvent → EventWord
  | .byte v => eventWord 0#2 v
  | .timeout => eventWord 1#2 0#8
  | .fail => eventWord 2#2 0#8

/-- The event word of an operation of format EVENT10 (R100, R104); the other rows have none. -/
def encodeEvent : Instr → Option EventWord
  | .evByte v => some (eventWord 0#2 v)
  | .evTimeout x => some (eventWord 1#2 x)
  | .evFail x => some (eventWord 2#2 x)
  | .evReserved x => some (eventWord 3#2 x)
  | .syncMatch v => some (eventWord 0#2 v)
  | .syncComplete v => some (eventWord 0#2 v)
  | .syncMismatch v => some (eventWord 0#2 v)
  | .hdrlenOk v => some (eventWord 0#2 v)
  | .hdrlenBad v => some (eventWord 0#2 v)
  | .hdrByte v => some (eventWord 0#2 v)
  | .hdrLast v => some (eventWord 0#2 v)
  | .payloadByte v => some (eventWord 0#2 v)
  | .payloadLast v => some (eventWord 0#2 v)
  | .crcByte v => some (eventWord 0#2 v)
  | .crcLast v => some (eventWord 0#2 v)
  | .decodeNext => none
  | .read => none
  | .frameEnd => none
  | .dispatchBestpos _ => none
  | .dispatchRange _ => none
  | .dispatchTrackstat _ => none
  | .dispatchBestxyz _ => none
  | .dispatchSatxyz _ => none
  | .dispatchUnknown _ => none
  | .unpack _ _ => none
  | .crc32 _ => none
  | .tableValue _ => none
  | .bswap32 _ => none
  | .square64 _ => none

/-- The message id of an operation of format MSGID (R102). DISPATCH_UNKNOWN is the row of every other id and has no
one id; the other rows have none. -/
def encodeMessageId (c : Config) : Instr → Option Word16
  | .dispatchBestpos _ => some c.msgidBestpos
  | .dispatchRange _ => some c.msgidRange
  | .dispatchTrackstat _ => some c.msgidTrackstat
  | .dispatchBestxyz _ => some c.msgidBestxyz
  | .dispatchSatxyz _ => some c.msgidSatxyz
  | .dispatchUnknown _ => none
  | .decodeNext => none
  | .read => none
  | .evByte _ => none
  | .evTimeout _ => none
  | .evFail _ => none
  | .evReserved _ => none
  | .syncMatch _ => none
  | .syncComplete _ => none
  | .syncMismatch _ => none
  | .hdrlenOk _ => none
  | .hdrlenBad _ => none
  | .hdrByte _ => none
  | .hdrLast _ => none
  | .payloadByte _ => none
  | .payloadLast _ => none
  | .crcByte _ => none
  | .crcLast _ => none
  | .frameEnd => none
  | .unpack _ _ => none
  | .crc32 _ => none
  | .tableValue _ => none
  | .bswap32 _ => none
  | .square64 _ => none

/-- The word of a well-formed instruction, in 16 bits as opcode_table.json numbers them: the event word of an EVENT10
row, the message id of a MSGID row. HOSTCALL and INTERNAL rows have no word in the spec. -/
def encode (c : Config) (i : Instr) : Option Word16 :=
  match encodeEvent i with
  | some w => some (w.setWidth 16)
  | none => encodeMessageId c i

/-! ## The host's reading of a table word -/

/-- What the decoder of fetched words, `decodeBytes`, reads from a table word. The fetched word is the transport's
event word: a byte operation's row spells `EV_BYTE`, which selects it by the framing state (R104; log 16). -/
def decodeTableWord (nbits w : Nat) : Option Instr :=
  if nbits = 0 then none
  else if 65536 ≤ w then none
  else match decodeBytes [BitVec.ofNat 8 w, BitVec.ofNat 8 (w / 256)] with
    | .ok i => some i
    | .error _ => none

end Sys2Proof
end

