-- ==== Sys2Proof/Machine/Defaults.lean ====
section
/-! DEFINITION. The default values of the parameters (00_scope R7). Those the spec marks "from general knowledge,
not in source" are PRESUMED (log 3); the value of MAX_BYTES_PER_CALL, which has no default, is a DESIGN CHOICE
(log 2). -/

namespace Sys2Proof.Machine

/-- 30_encoding R86. -/
def defaultBestPosLayout : BestPosLayout where
  solutionStatus := ⟨.u32, 0⟩
  positionType := ⟨.u32, 4⟩
  latitude := 8
  longitude := 16
  altitude := 24
  stdevLatitude := 40
  stdevLongitude := 44
  stdevAltitude := 48
  numSatsTracked := ⟨.u8, 64⟩
  numSatsUsed := ⟨.u8, 65⟩
  unread := [⟨32, 8⟩, ⟨52, 12⟩]

/-- 30_encoding R87. -/
def defaultBestXyzLayout : BestXyzLayout where
  positionStatus := ⟨.u32, 0⟩
  positionType := ⟨.u32, 4⟩
  positionX := 8
  positionY := 16
  positionZ := 24
  positionSigmaX := 32
  positionSigmaY := 36
  positionSigmaZ := 40
  velocityStatus := ⟨.u32, 44⟩
  velocityType := ⟨.u32, 48⟩
  velocityX := 52
  velocityY := 60
  velocityZ := 68
  velocitySigmaX := 76
  velocitySigmaY := 80
  velocitySigmaZ := 84
  numSatsTracked := ⟨.u8, 104⟩
  numSatsUsed := ⟨.u8, 105⟩
  unread := [⟨88, 16⟩]

/-- 30_encoding R88 and R89. -/
def defaultSatXyzLayout : SatXyzLayout where
  numSatellites := 8
  base := 12
  unread := [⟨0, 8⟩]
  prn := 0
  x := 4
  y := 12
  z := 20
  clockCorrection := 28
  ionosphericCorrection := 36
  troposphericCorrection := 44

/-- 30_encoding R90 and R91. -/
def defaultTrackStatLayout : TrackStatLayout where
  solutionStatus := ⟨.u32, 0⟩
  positionType := ⟨.u32, 4⟩
  elevationCutoff := 8
  numChannels := 12
  base := 16
  unread := []
  prn := 0
  trackingStatus := 4
  pseudorange := 8
  doppler := 16
  cn0 := 20
  locktime := 24
  psrResidual := 28
  psrWeight := 36

/-- 30_encoding R92 and R93. -/
def defaultRangeLayout : RangeLayout where
  numObservations := 0
  base := 4
  unread := [⟨2, 2⟩]
  prn := 0
  pseudorange := 4
  pseudorangeStdev := 12
  adr := 16
  adrStdev := 24
  doppler := 28
  cn0 := 32
  locktime := 36
  trackingStatus := 40

/-- The default `LAYOUT` (R81, R86-R93). -/
def defaultLayout : Layout where
  bestPos := defaultBestPosLayout
  bestXyz := defaultBestXyzLayout
  satXyz := defaultSatXyzLayout
  trackStat := defaultTrackStatLayout
  range := defaultRangeLayout

/-- The default `RXSTATUS_TABLE`, bits 0-15 (30_encoding R95). -/
def rxStatusLow : List FlagBit :=
  [⟨.errorFlag, 0⟩, ⟨.temperatureWarning, 1⟩, ⟨.voltageSupplyWarning, 2⟩, ⟨.antennaNotPowered, 3⟩,
   ⟨.reserved4, 4⟩, ⟨.antennaOpen, 5⟩, ⟨.antennaShorted, 6⟩, ⟨.cpuOverload, 7⟩, ⟨.com1Overrun, 8⟩,
   ⟨.com2Overrun, 9⟩, ⟨.com3Overrun, 10⟩, ⟨.usbOverrun, 11⟩, ⟨.reserved12, 12⟩, ⟨.reserved13, 13⟩,
   ⟨.reserved14, 14⟩, ⟨.rf1AgcFault, 15⟩]

/-- The default `RXSTATUS_TABLE`, bits 16-31 (R95). -/
def rxStatusHigh : List FlagBit :=
  [⟨.reserved16, 16⟩, ⟨.rf2AgcFault, 17⟩, ⟨.almanacUtcFlag, 18⟩, ⟨.positionSolutionFlag, 19⟩,
   ⟨.positionFixedFlag, 20⟩, ⟨.clockSteeringStatus, 21⟩, ⟨.clockModelFlag, 22⟩, ⟨.externalOscillatorFlag, 23⟩,
   ⟨.softwareResourceFlag, 24⟩, ⟨.reserved25, 25⟩, ⟨.reserved26, 26⟩, ⟨.reserved27, 27⟩, ⟨.reserved28, 28⟩,
   ⟨.auxiliary3Flag, 29⟩, ⟨.auxiliary2Flag, 30⟩, ⟨.auxiliary1Flag, 31⟩]

/-- The default `RXSTATUS_TABLE` (R95). -/
def defaultRxStatusTable : List FlagBit := rxStatusLow ++ rxStatusHigh

/-- The default `TRACKSTATUS_TABLE` (30_encoding R97; 90_conflicts C1 for bits 19 and 29). -/
def defaultTrackStatusTable : BitTable :=
  [⟨.trackingState, 0, 5⟩, ⟨.svChannel, 5, 5⟩, ⟨.phaseLock, 10, 1⟩, ⟨.parityKnown, 11, 1⟩,
   ⟨.codeLock, 12, 1⟩, ⟨.correlatorType, 13, 3⟩, ⟨.satelliteSystem, 16, 3⟩, ⟨.reserved19, 19, 1⟩,
   ⟨.grouping, 20, 1⟩, ⟨.signalType, 21, 5⟩, ⟨.fec, 26, 1⟩, ⟨.primaryL1, 27, 1⟩,
   ⟨.halfCycleAdded, 28, 1⟩, ⟨.reserved29, 29, 1⟩, ⟨.prnLock, 30, 1⟩, ⟨.channelAssignment, 31, 1⟩]

/-- The configuration `State.reset` is built with. Strict is the spec's default policy (R7, 92 D8).
DESIGN CHOICE (log 2): 65567 reads, the longest frame (R8), since MAX_BYTES_PER_CALL has no default (92 D10). -/
def defaultConfig : Config where
  sync0 := 0xAA#8
  sync1 := 0x44#8
  sync2 := 0x12#8
  crcPolicy := .strict
  maxBytesPerCall := 65567
  payloadCap := 65535
  msgidBestpos := 42#16
  msgidRange := 43#16
  msgidTrackstat := 83#16
  msgidBestxyz := 241#16
  msgidSatxyz := 270#16
  layout := defaultLayout
  rxStatusTable := defaultRxStatusTable
  trackStatusTable := defaultTrackStatusTable

end Sys2Proof.Machine
end

