-- ==== Sys2Proof/Machine/Record.lean ====
section
/-! DEFINITION. What a call hands to the host: records, the decoded frame and the call's result
(43_decoder, 44_reader R265 and R274). Float fields are bit patterns (20_memory R59), i16 and i32 fields integers
(R58), and fields whose width is part of the layout unsigned integers (30_encoding R81; log 15). -/

namespace Sys2Proof.Machine

/-- The header record (41_sync_header R154): the thirteen registers of `S.hdr`. -/
structure HeaderRecord where
  headerLength : Byte
  messageId : Word16
  messageType : Byte
  portAddress : Byte
  messageLength : Word16
  sequence : Word16
  idleTime : Byte
  timeStatus : Byte
  gpsWeek : Word16
  gpsMilliseconds : Word32
  receiverStatus : Word32
  reserved : Word16
  receiverSwVersion : Word16
  deriving DecidableEq, Repr

/-- What UNPACK returns: the value of each named field (R206). -/
abbrev Fields := List (FieldName × Word32)

/-- `RxStatus{raw, flags}` (R208). -/
structure RxStatus where
  raw : Word32
  flags : Fields
  deriving DecidableEq, Repr

/-- `TrackingStatus{raw, fields}` (R209). -/
structure TrackingStatus where
  raw : Word32
  fields : Fields
  deriving DecidableEq, Repr

/-- The BestPos record (R210). -/
structure BestPos where
  solutionStatus : Nat
  positionType : Nat
  latitude : Word64
  longitude : Word64
  altitude : Word64
  stdevLatitude : Word32
  stdevLongitude : Word32
  stdevAltitude : Word32
  numSatsTracked : Nat
  numSatsUsed : Nat
  covarLatitude : Word64
  covarLongitude : Word64
  covarAltitude : Word64
  deriving DecidableEq, Repr

/-- The BestXyz record (R215). -/
structure BestXyz where
  positionStatus : Nat
  positionType : Nat
  positionX : Word64
  positionY : Word64
  positionZ : Word64
  positionSigmaX : Word32
  positionSigmaY : Word32
  positionSigmaZ : Word32
  velocityStatus : Nat
  velocityType : Nat
  velocityX : Word64
  velocityY : Word64
  velocityZ : Word64
  velocitySigmaX : Word32
  velocitySigmaY : Word32
  velocitySigmaZ : Word32
  numSatsTracked : Nat
  numSatsUsed : Nat
  deriving DecidableEq, Repr

/-- One satellite of a SatXyz record (R220). -/
structure SatEntry where
  prn : Word32
  x : Word64
  y : Word64
  z : Word64
  clockCorrection : Word64
  ionosphericCorrection : Word64
  troposphericCorrection : Word64
  deriving DecidableEq, Repr

/-- The SatXyz record (R220). -/
structure SatXyz where
  numSatellites : Word32
  satellites : List SatEntry
  deriving DecidableEq, Repr

/-- One channel of a TrackStat record (R230). -/
structure TrackEntry where
  prn : Int
  trackingStatus : TrackingStatus
  pseudorange : Word64
  doppler : Word32
  cn0 : Word32
  locktime : Word32
  psrResidual : Word32
  psrWeight : Word32
  deriving DecidableEq, Repr

/-- The TrackStat record (R230). -/
structure TrackStat where
  solutionStatus : Nat
  positionType : Nat
  elevationCutoff : Word32
  numChannels : Int
  channels : List TrackEntry
  deriving DecidableEq, Repr

/-- One observation of a Range record (R240). -/
structure RangeEntry where
  prn : Word16
  pseudorange : Word64
  pseudorangeStdev : Word32
  adr : Word64
  adrStdev : Word32
  doppler : Word32
  cn0 : Word32
  locktime : Word32
  trackingStatus : TrackingStatus
  deriving DecidableEq, Repr

/-- The Range record (R240). -/
structure RangeRecord where
  numObservations : Word16
  observations : List RangeEntry
  deriving DecidableEq, Repr

/-- A decoded value of one of the five types (00_scope R13, Record). -/
inductive Record
  | bestPos (r : BestPos)
  | bestXyz (r : BestXyz)
  | satXyz (r : SatXyz)
  | trackStat (r : TrackStat)
  | range (r : RangeRecord)
  deriving DecidableEq, Repr

/-- The structure `Decoded` carries (44_reader R274). -/
structure DecodedFrame where
  header : HeaderRecord
  receiverStatus : RxStatus
  record : Record
  crcOk : Bool
  deriving DecidableEq, Repr

/-- The kinds of `Error(kind)` (R265). -/
inductive ErrorKind
  | transportError
  | countFieldOutOfBounds
  | payloadTooShort
  deriving DecidableEq, Repr

/-- What a call returns (R265). -/
inductive FrameResult
  | decoded (frame : DecodedFrame)
  | noFrameYet
  | error (kind : ErrorKind)
  deriving DecidableEq, Repr

/-- What an internal function returns (log 9): a u32, a binary64 pattern, or unpacked fields. -/
inductive FnResult
  | word (v : Word32)
  | double (v : Word64)
  | fields (f : Fields)
  deriving DecidableEq, Repr

/-- A decoder's own errors (43_decoder R204, R251). -/
inductive DecodeError
  | countFieldOutOfBounds
  | payloadTooShort
  deriving DecidableEq, Repr

end Sys2Proof.Machine
end

