-- ==== Sys2Proof/Machine/State.lean ====
section
/-! DEFINITION. The block's state (10_state R21), with the model's own fields for what the spec puts outside the
block: the configuration, the transport's answers, the host's calls and the results (log 1, 4, 5, 7, 8, 9). -/

namespace Sys2Proof.Machine

/-- The header register bank `S.hdr` (R24). `none` is the spec's own "unwritten": the register "holds no value until
it is written in the current candidate frame" (R25). A read of such a register gives a free value (log 11). -/
structure Header where
  headerLength : Option Byte
  messageId : Option Word16
  messageType : Option Byte
  portAddress : Option Byte
  messageLength : Option Word16
  sequence : Option Word16
  idleTime : Option Byte
  timeStatus : Option Byte
  gpsWeek : Option Word16
  gpsMilliseconds : Option Word32
  receiverStatus : Option Word32
  reserved : Option Word16
  receiverSwVersion : Option Word16
  deriving DecidableEq, Repr

/-- Every register unwritten (R35, R53). -/
def Header.unwritten : Header :=
  ⟨none, none, none, none, none, none, none, none, none, none, none, none, none⟩

/-- The frame buffer `S.buf`, a byte-addressed memory (20_memory R50): the bytes written, addresses rising from 0.
An address that is not listed holds no byte (log 12). -/
abbrev Memory := List Host.Cell

/-- One call of the host that has not been made yet (log 7). -/
inductive HostCall
  /-- A host that serializes its calls (70 R344): it calls when no call is active. -/
  | serialized
  /-- A host that calls at once, a call being active or not (44_reader R272). -/
  | immediate
  deriving DecidableEq, Repr

/-- The state. The first seven fields are exactly those of R21; the others are the model's own. -/
structure State where
  phase : Phase
  buf : Memory
  hdr : Header
  crcb : List Byte
  status : BitVec 4
  callActive : Bool
  nRead : Nat
  cfg : Config
  transport : List EventWord
  host : List HostCall
  results : List FrameResult
  fnResult : Option FnResult
  draw : Nat
  deriving DecidableEq, Repr

/-- Why the model stops with a fault. No state that meets the block's invariants (10_state R32) reaches one. -/
inductive Fault
  /-- A byte is appended at another address than the buffer's length, or past its capacity, or a header field is
  assembled from bytes the buffer does not hold (20_memory R50, R52). Raised by the sync, header and payload
  operations. Safe: the address does not exist. -/
  | bufferAddress
  /-- A decoder reads past the payload's end or where the buffer holds no byte (R56, R202). Raised by DISPATCH under a
  layout whose entries do not fit their stride. Safe: the spec calls such a read not legal. -/
  | payloadRead
  /-- HDR_LAST with a message length of 0: `Payload{0}` is no phase (10_state R22; log 24). Safe. -/
  | phaseArgument
  deriving DecidableEq, Repr

/-- Why the model takes no step. -/
inductive Refusal
  /-- No meaning yet, by mnemonic. Raised by exec's own arms. Safe. -/
  | notModelled (mnemonic : String)
  /-- The event kind 11 spells no event (30_encoding R101). Raised by EV_RESERVED and READ. Safe: R101 refuses it. -/
  | reservedEventKind
  /-- `decode_next` while a call is active (44_reader R272). Raised by DECODE_NEXT. Safe: R272 refuses it. -/
  | reentrantCall
  /-- Two of the five message ids are equal (30_encoding R102). Raised by the fetch of every step (log 25). Safe:
  R102 refuses such a configuration. -/
  | equalMessageIds
  /-- An operation in a state that does not select it (R104; log 10). Raised by the operations with a "Selected when".
  Safe: the spec gives no step, and no step of the machine runs one. -/
  | notSelected
  deriving DecidableEq, Repr

/-- The machine right after reset with configuration `c` (10_state R35, 70 R340): reset is the construction of an
instance. The model's own fields start empty (log 4, 5, 7, 8, 9); an instance built where a machine already stands
takes over what is not the block's own (R342, `State.rebuiltWith` in Ops.lean). -/
def State.resetWith (c : Config) : State where
  phase := .sync 0
  buf := []
  hdr := Header.unwritten
  crcb := []
  status := 0x0#4
  callActive := false
  nRead := 0
  cfg := c
  transport := []
  host := []
  results := []
  fnResult := none
  draw := 0

/-- Reset with the default configuration (log 2, 3). -/
def State.reset : State := State.resetWith defaultConfig

end Sys2Proof.Machine
end

