-- ==== Sys2Proof/Machine/Crc.lean ====
section
/-! DEFINITION. The Crc32Engine's functions (40_crc R120-R124). -/

namespace Sys2Proof.Machine

/-- `CRC_POLY`, reflected (00_scope R7). -/
def crcPoly : Word32 := 0xEDB88320#32

/-- `CRC_INIT` (R7). -/
def crcInit : Word32 := 0x00000000#32

/-- One of the 8 rounds of `table_value` (R121). -/
def crcRound (t : Word32) : Word32 := if t.getLsbD 0 then (t >>> 1) ^^^ crcPoly else t >>> 1

/-- `n` rounds. -/
def crcRounds : Nat → Word32 → Word32
  | 0, t => t
  | n + 1, t => crcRounds n (crcRound t)

/-- `table_value(i)` (R121). -/
def tableValue (i : Word32) : Word32 := crcRounds 8 i

/-- The register after one more byte (R122). -/
def crcStep (crc : Word32) (b : Byte) : Word32 :=
  (crc >>> 8) ^^^ tableValue ((crc ^^^ b.setWidth 32) &&& 0xFF#32)

/-- `crc32(B)`, with no final transformation (R122, R123). -/
def crc32 (bytes : List Byte) : Word32 := bytes.foldl crcStep crcInit

/-- `bswap32(v)` (R124). -/
def bswap32 (v : Word32) : Word32 :=
  (v.extractLsb' 0 8).setWidth 32 <<< 24 ||| (v.extractLsb' 8 8).setWidth 32 <<< 16
    ||| (v.extractLsb' 16 8).setWidth 32 <<< 8 ||| (v.extractLsb' 24 8).setWidth 32

end Sys2Proof.Machine
end

