-- ==== Sys2Proof/Machine/Operands.lean ====
section
/-! DEFINITION. Reading bytes: the little-endian assembly, the frame buffer and the payload (20_memory R50-R61). -/

namespace Sys2Proof.Machine

/-! ## Little-endian assembly (R54) -/

/-- `le16` of two bytes, the lower address first. -/
def le16 (b0 b1 : Byte) : Word16 := b0.setWidth 16 ||| b1.setWidth 16 <<< 8

/-- `le32` of four bytes, the lowest address first. -/
def le32 (b0 b1 b2 b3 : Byte) : Word32 :=
  b0.setWidth 32 ||| b1.setWidth 32 <<< 8 ||| b2.setWidth 32 <<< 16 ||| b3.setWidth 32 <<< 24

/-- `le64` of the two words at offsets o and o + 4. -/
def le64 (lo hi : Word32) : Word64 := lo.setWidth 64 ||| hi.setWidth 64 <<< 32

/-! ## The frame buffer (R50) -/

/-- The byte at an address, if the buffer holds one there. -/
def Memory.read : Memory → Nat → Option Byte
  | [], _ => none
  | (a, b) :: m, o => if a = o then some b else Memory.read m o

/-- The buffer's bytes in order of address: the byte sequence `S.buf`. -/
def Memory.bytes (m : Memory) : List Byte := m.map Prod.snd

/-- The canonical form: the addresses are exactly 0 .. length - 1, in order (R50, R52). -/
def Memory.wf (m : Memory) : Bool := m.map Prod.fst == List.range m.length

/-- The buffer one byte longer: `MemWrite(len, 1, v)` (R52). -/
def Memory.append (m : Memory) (v : Byte) : Memory := m ++ [(m.length, v)]

/-- `MemRead(o, 2)` (R54). -/
def Memory.read16 (m : Memory) (o : Nat) : Option Word16 := do
  let b0 ← Memory.read m o
  let b1 ← Memory.read m (o + 1)
  pure (le16 b0 b1)

/-- `MemRead(o, 4)` (R54). -/
def Memory.read32 (m : Memory) (o : Nat) : Option Word32 := do
  let b0 ← Memory.read m o
  let b1 ← Memory.read m (o + 1)
  let b2 ← Memory.read m (o + 2)
  let b3 ← Memory.read m (o + 3)
  pure (le32 b0 b1 b2 b3)

/-- `MemRead(o, 8)` (R54). -/
def Memory.read64 (m : Memory) (o : Nat) : Option Word64 := do
  let lo ← Memory.read32 m o
  let hi ← Memory.read32 m (o + 4)
  pure (le64 lo hi)

/-! ## The payload (R56, R202): every access width of R58, each legal only when it ends at or before L -/

/-- `P`: the frame buffer and the payload length L. -/
structure Payload where
  mem : Memory
  len : Nat
  deriving DecidableEq, Repr

/-- `rd(u8, o)`. -/
def payU8 (p : Payload) (o : Nat) : Option Byte :=
  if o + 1 ≤ p.len then Memory.read p.mem (28 + o) else none

/-- `rd(u16, o)`. -/
def payU16 (p : Payload) (o : Nat) : Option Word16 :=
  if o + 2 ≤ p.len then Memory.read16 p.mem (28 + o) else none

/-- `rd(u32, o)`. -/
def payU32 (p : Payload) (o : Nat) : Option Word32 :=
  if o + 4 ≤ p.len then Memory.read32 p.mem (28 + o) else none

/-- `rd(i16, o)`: the two's-complement integer (R58). -/
def payI16 (p : Payload) (o : Nat) : Option Int := (payU16 p o).map BitVec.toInt

/-- `rd(i32, o)`: the two's-complement integer (R58). -/
def payI32 (p : Payload) (o : Nat) : Option Int := (payU32 p o).map BitVec.toInt

/-- `rd(f32, o)`: the binary32 pattern, unconverted (R58, R59). -/
def payF32 (p : Payload) (o : Nat) : Option Word32 := payU32 p o

/-- `rd(f64, o)`: the binary64 pattern, unconverted (R58, R59). -/
def payF64 (p : Payload) (o : Nat) : Option Word64 :=
  if o + 8 ≤ p.len then Memory.read64 p.mem (28 + o) else none

/-- `rd(t, o)` of a field whose unsigned type is part of the layout (R81; log 15). -/
def payUnsigned (p : Payload) (f : UField) : Option Nat :=
  match f.width with
  | .u8 => (payU8 p f.off).map BitVec.toNat
  | .u16 => (payU16 p f.off).map BitVec.toNat
  | .u32 => (payU32 p f.off).map BitVec.toNat

/-! ## The length of a layout's fixed part (R94, R204) -/

/-- The size in bytes of an unsigned type. -/
def widthSize : UWidth → Nat
  | .u8 => 1
  | .u16 => 2
  | .u32 => 4

/-- `offset + size` of a field whose width is part of the layout. -/
def fieldEnd (f : UField) : Nat := f.off + widthSize f.width

/-- `offset + size` of a "(not read)" row. -/
def spanEnd (s : Span) : Nat := s.off + s.size

/-- The largest of some ends. -/
def maxEnd (ends : List Nat) : Nat := ends.foldr max 0

/-- `min_len` of BestPos (R94). -/
def bestPosMinLen (l : BestPosLayout) : Nat :=
  maxEnd ([fieldEnd l.solutionStatus, fieldEnd l.positionType, l.latitude + 8, l.longitude + 8, l.altitude + 8,
    l.stdevLatitude + 4, l.stdevLongitude + 4, l.stdevAltitude + 4, fieldEnd l.numSatsTracked, fieldEnd l.numSatsUsed]
    ++ l.unread.map spanEnd)

/-- `min_len` of BestXyz (R94). -/
def bestXyzMinLen (l : BestXyzLayout) : Nat :=
  maxEnd ([fieldEnd l.positionStatus, fieldEnd l.positionType, l.positionX + 8, l.positionY + 8, l.positionZ + 8,
    l.positionSigmaX + 4, l.positionSigmaY + 4, l.positionSigmaZ + 4, fieldEnd l.velocityStatus, fieldEnd l.velocityType,
    l.velocityX + 8, l.velocityY + 8, l.velocityZ + 8, l.velocitySigmaX + 4, l.velocitySigmaY + 4,
    l.velocitySigmaZ + 4, fieldEnd l.numSatsTracked, fieldEnd l.numSatsUsed] ++ l.unread.map spanEnd)

/-- `min_len` of SatXyz (R94). -/
def satXyzMinLen (l : SatXyzLayout) : Nat :=
  maxEnd ([l.numSatellites + 4] ++ l.unread.map spanEnd)

/-- `min_len` of TrackStat (R94). -/
def trackStatMinLen (l : TrackStatLayout) : Nat :=
  maxEnd ([fieldEnd l.solutionStatus, fieldEnd l.positionType, l.elevationCutoff + 4, l.numChannels + 4]
    ++ l.unread.map spanEnd)

/-- `min_len` of Range (R94; the "(not read)" row of R92 makes it 4, log 14). -/
def rangeMinLen (l : RangeLayout) : Nat :=
  maxEnd ([l.numObservations + 2] ++ l.unread.map spanEnd)

end Sys2Proof.Machine
end

