-- ==== Sys2Proof/Machine/Flags.lean ====
section
/-! DEFINITION. Every flag and status computation: the status codes (10_state R27), the frame's crc_ok
(42_payload_validate R176-R178), and the unpacking of status words (43_decoder R206-R209). -/

namespace Sys2Proof.Machine

/-! ## The status register (R27) -/

/-- The events `S.status` records. -/
inductive EventCode
  | none
  | decoded
  | decodedCrcMismatch
  | syncLost
  | invalidHeaderLength
  | zeroLengthMessage
  | payloadTooLong
  | crcMismatch
  | unknownMessageId
  | countFieldOutOfBounds
  | payloadTooShort
  deriving DecidableEq, Repr

/-- The 4-bit code of an event (R27's table). -/
def EventCode.bits : EventCode → BitVec 4
  | .none => 0x0#4
  | .decoded => 0x1#4
  | .decodedCrcMismatch => 0x2#4
  | .syncLost => 0x3#4
  | .invalidHeaderLength => 0x4#4
  | .zeroLengthMessage => 0x5#4
  | .payloadTooLong => 0x6#4
  | .crcMismatch => 0x7#4
  | .unknownMessageId => 0x8#4
  | .countFieldOutOfBounds => 0x9#4
  | .payloadTooShort => 0xA#4

/-- The status code of a decoder's error (R27, 60_exceptions R300). -/
def DecodeError.code : DecodeError → EventCode
  | .countFieldOutOfBounds => .countFieldOutOfBounds
  | .payloadTooShort => .payloadTooShort

/-- The kind a decoder's error is surfaced with (44_reader R265). -/
def DecodeError.kind : DecodeError → ErrorKind
  | .countFieldOutOfBounds => .countFieldOutOfBounds
  | .payloadTooShort => .payloadTooShort

/-- The status a decoded frame leaves (43_decoder R252). -/
def decodedCode (crcOk : Bool) : EventCode := if crcOk then .decoded else .decodedCrcMismatch

/-! ## crc_ok -/

/-- `wire` (42_payload_validate R176): of exactly four bytes. -/
def wireCrc : List Byte → Option Word32
  | [b0, b1, b2, b3] => some (le32 b0 b1 b2 b3)
  | _ => none

/-- `crc_ok` (R177, R178). -/
def crcOkOf (wire : Word32) (covered : List Byte) : Bool := wire == bswap32 (crc32 covered)

/-- FRAME_END hands the frame to DISPATCH: the CRC matches, or the policy is Lenient (R180). -/
def passesPolicy (c : Config) (crcOk : Bool) : Bool := crcOk || c.crcPolicy == .lenient

/-! ## Status words -/

/-- The field of `w` that an entry names: `(w >> off) & ((1 << wd) - 1)` (43_decoder R206). -/
def unpackField (w : Word32) (e : BitSlice) : Word32 :=
  (w >>> e.offset) &&& BitVec.ofNat 32 (2 ^ e.width - 1)

/-- `UNPACK(w, T)` (R206). DESIGN CHOICE (log 29): of two entries with one name, which R206 does not speak of, both
values are kept, in the table's order. -/
def unpack (w : Word32) (table : BitTable) : Fields := table.map fun e => (e.name, unpackField w e)

/-- The value of a named field, if there is one; of two with one name, the first (DESIGN CHOICE, log 29). -/
def fieldValue : Fields → FieldName → Option Word32
  | [], _ => none
  | (n, v) :: f, m => if n = m then some v else fieldValue f m

/-- `REPACK(f, T)`: the OR of `f[name] << off` over T (R207). A name that `f` lacks adds nothing. -/
def repack (f : Fields) (table : BitTable) : Word32 :=
  table.foldl (fun acc e => acc ||| (fieldValue f e.name).getD 0 <<< e.offset) 0

/-- `RXSTATUS_TABLE` as a bit table: every entry has width 1 (R208). -/
def rxBitTable (c : Config) : BitTable := c.rxStatusTable.map fun f => ⟨f.name, f.bit, 1⟩

/-- The receiver-status decode (R208). -/
def rxStatus (c : Config) (raw : Word32) : RxStatus := ⟨raw, unpack raw (rxBitTable c)⟩

/-- The tracking-status decode (R209). -/
def trackingStatus (c : Config) (raw : Word32) : TrackingStatus := ⟨raw, unpack raw c.trackStatusTable⟩

/-- The entries' bits partition 31:0: their widths add up to 32, they lie in the word, and no two overlap (R95, R97). -/
def partitionsWord (table : BitTable) : Bool :=
  table.all BitSlice.inWord && decide ((table.map BitSlice.width).sum = 32)
    && decide (table.Pairwise fun a b => a.offset + a.width ≤ b.offset ∨ b.offset + b.width ≤ a.offset)
    && decide (table.map BitSlice.name).Nodup

end Sys2Proof.Machine
end

