-- ==== Sys2Proof/Machine/Ops.lean ====
section
/-! DEFINITION. The shared operations: appending to the buffer, writing header registers, the recovery from an error
(discard, raise), the end of a call (emit, NoFrameYet), and the transport request. -/

namespace Sys2Proof.Machine

/-- What a step or a meaning answers. -/
abbrev Result := Host.Outcome State Fault Refusal

/-- Go on with the next state, if there is one. -/
def andThen (o : Result) (k : State → Result) : Result :=
  match o with
  | .next s => k s
  | .fault f => .fault f
  | .refused r => .refused r

/-- The next state, if there is one. -/
def nextState : Result → Option State
  | .next s => some s
  | .fault _ => none
  | .refused _ => none

/-- The fault, if there is one. -/
def faultOf : Result → Option Fault
  | .next _ => none
  | .fault f => some f
  | .refused _ => none

/-- The refusal, if there is one. -/
def refusalOf : Result → Option Refusal
  | .next _ => none
  | .fault _ => none
  | .refused r => some r

/-! ## The frame buffer and the header registers -/

/-- The frame buffer's capacity, `28 + PAYLOAD_CAP` (20_memory R50). -/
def bufCapacity (c : Config) : Nat := 28 + c.payloadCap

/-- `MemWrite(o, 1, v)`: legal only with o the buffer's length (00_scope R11, 20_memory R52) and o an address of the
buffer (R50). -/
def memWrite (o : Nat) (v : Byte) (s : State) : Result :=
  if o = s.buf.length ∧ o < bufCapacity s.cfg then .next { s with buf := Memory.append s.buf v }
  else .fault .bufferAddress

/-- The header bank after the byte `v` has been stored at offset `p`: a single-byte register is written at once, a
multi-byte one when its last byte arrives, and at any other offset nothing is written (10_state R24, 41 R147, R148).
`none`: the buffer lacks a byte of the field. -/
def headerAfter (p : Nat) (v : Byte) (m : Memory) (h : Header) : Option Header :=
  match p with
  | 3 => some { h with headerLength := some v }
  | 5 => (Memory.read16 m 4).map fun x => { h with messageId := some x }
  | 6 => some { h with messageType := some v }
  | 7 => some { h with portAddress := some v }
  | 9 => (Memory.read16 m 8).map fun x => { h with messageLength := some x }
  | 11 => (Memory.read16 m 10).map fun x => { h with sequence := some x }
  | 12 => some { h with idleTime := some v }
  | 13 => some { h with timeStatus := some v }
  | 15 => (Memory.read16 m 14).map fun x => { h with gpsWeek := some x }
  | 19 => (Memory.read32 m 16).map fun x => { h with gpsMilliseconds := some x }
  | 23 => (Memory.read32 m 20).map fun x => { h with receiverStatus := some x }
  | 25 => (Memory.read16 m 24).map fun x => { h with reserved := some x }
  | 27 => (Memory.read16 m 26).map fun x => { h with receiverSwVersion := some x }
  | _ => some h

/-- What a header register reads as: the value the current frame has written; a free value while it is unwritten, and
so "holds no value" (10_state R25, R35; log 11). `offset` is the register's first frame offset (R24). -/
def registerValue {w : Nat} (r : Option (BitVec w)) (offset draw : Nat) : BitVec w :=
  r.getD ((Config.freeRegister offset draw).setWidth w)

/-- The free values that a read takes. -/
def freeDraws {α : Type} (r : Option α) : Nat :=
  match r with
  | some _ => 0
  | none => 1

/-- The state after `n` free values have been taken (log 5). -/
def State.drew (s : State) (n : Nat) : State := { s with draw := s.draw + n }

/-- A read of a header register: go on with its value. DESIGN CHOICE (log 11): R25 lets a model fault on a read of an
unwritten register, and 93 I18 lists a fault that no legal run reaches; this model takes a free value, the same for every
read of that register in the operation, and counts it when the operation is over. -/
def readRegister {w : Nat} (r : Option (BitVec w)) (offset : Nat) (s : State) (k : BitVec w → Result) : Result :=
  andThen (k (registerValue r offset s.draw)) fun t => .next (t.drew (freeDraws r))

/-- `write_header_register(p)` (41 R146). -/
def writeHeaderRegister (p : Nat) (v : Byte) (s : State) : Result :=
  match headerAfter p v s.buf s.hdr with
  | some h => .next { s with hdr := h }
  | none => .fault .bufferAddress

/-- The header record, if every register is written (41 R154). -/
def headerRecord : Header → Option HeaderRecord
  | ⟨some headerLength, some messageId, some messageType, some portAddress, some messageLength, some sequence,
      some idleTime, some timeStatus, some gpsWeek, some gpsMilliseconds, some receiverStatus, some reserved,
      some receiverSwVersion⟩ =>
    some { headerLength, messageId, messageType, portAddress, messageLength, sequence, idleTime, timeStatus, gpsWeek,
           gpsMilliseconds, receiverStatus, reserved, receiverSwVersion }
  | _ => none

/-- The header record with every register read: what is unwritten has a free value (log 11). -/
def Header.values (h : Header) (draw : Nat) : HeaderRecord where
  headerLength := registerValue h.headerLength 3 draw
  messageId := registerValue h.messageId 4 draw
  messageType := registerValue h.messageType 6 draw
  portAddress := registerValue h.portAddress 7 draw
  messageLength := registerValue h.messageLength 8 draw
  sequence := registerValue h.sequence 10 draw
  idleTime := registerValue h.idleTime 12 draw
  timeStatus := registerValue h.timeStatus 13 draw
  gpsWeek := registerValue h.gpsWeek 14 draw
  gpsMilliseconds := registerValue h.gpsMilliseconds 16 draw
  receiverStatus := registerValue h.receiverStatus 20 draw
  reserved := registerValue h.reserved 24 draw
  receiverSwVersion := registerValue h.receiverSwVersion 26 draw

/-- The checks at offset 9, the zero length first (41 R149, R150, R152). -/
def lengthError (c : Config) (len : Word16) : Option EventCode :=
  if len = 0#16 then some .zeroLengthMessage
  else if c.payloadCap < len.toNat then some .payloadTooLong
  else none

/-- The next framing state. -/
def State.setPhase (s : State) (ph : Phase) : State := { s with phase := ph }

/-- The machine with a new instance of the block built with configuration `c` in place of the old one: a reset (70
R340, R341). The block's seven fields take the values of 10_state R35 and the configuration is set; the transport is not
touched (R342), its queue and the draw counter behind its free answers, nor what is the host's: its calls, the results
delivered and the value last returned (log 27). It starts a new run (R39); no step and no operation does it (R341). -/
def State.rebuiltWith (s : State) (c : Config) : State :=
  { s with
    phase := .sync 0
    buf := []
    hdr := Header.unwritten
    crcb := []
    status := 0x0#4
    callActive := false
    nRead := 0
    cfg := c }

/-! ## The end of a candidate frame and of a call -/

/-- `S.phase` is set to `Sync{0}`, the buffer and the CRC bytes are emptied and every header register becomes
unwritten (20_memory R53). -/
def State.clearFrame (s : State) : State :=
  { s with phase := .sync 0, buf := [], hdr := Header.unwritten, crcb := [] }

/-- The state after `discard(code)` (60_exceptions R302): the recovery of every frame error. -/
def discarded (code : EventCode) (s : State) : State := { s.clearFrame with status := code.bits }

/-- `discard(code)` (R302): the call goes on. -/
def discard (code : EventCode) (s : State) : Result := .next (discarded code s)

/-- The call ends with a result (44_reader R266): it is delivered to the host. DESIGN CHOICE (log 26): with no call
active, where the spec gives no step (R276), the result is delivered all the same. -/
def State.endCall (s : State) (r : FrameResult) : State :=
  { s with callActive := false, results := s.results ++ [r] }

/-- The state after `raise code` (60_exceptions R303): the frame is discarded and the call ends with the error. -/
def raised (e : DecodeError) (s : State) : State := (discarded e.code s).endCall (.error e.kind)

/-- The state after `emit Decoded(frame)` (00_scope R11, 43_decoder R252). -/
def emitted (f : DecodedFrame) (s : State) : State :=
  (discarded (decodedCode f.crcOk) s).endCall (.decoded f)

/-! ## Dispatch -/

/-- DISPATCH with the decoder its message id selects (43_decoder R200): `isId` says the id is the operation's,
`dec` is the decoder, and `draws` the number of free values it may take. The message id is read first, then the message
length, and the other header registers only for the frame that is delivered. An operation whose id is another, or whose
frame the CRC policy keeps from DISPATCH (42 R180), is not selected (log 10). DESIGN CHOICE (log 28): R104 selects
DISPATCH inside FRAME_END only; executed on its own, it does not look at S.phase or S.crcb and takes crc_ok as it is
given. -/
def dispatchWith (isId : Config → Word16 → Bool) (dec : State → Payload → Option (Except DecodeError Record))
    (draws : Nat) (crcOk : Bool) (s : State) : Result :=
  readRegister s.hdr.messageId 4 s fun id =>
    if isId s.cfg id && passesPolicy s.cfg crcOk then
      readRegister s.hdr.messageLength 8 s fun len =>
        match dec s ⟨s.buf, len.toNat⟩ with
        | none => .fault .payloadRead
        | some (.error e) => .next (raised e s)
        | some (.ok r) =>
          let h := s.hdr.values s.draw
          .next (emitted ⟨h, rxStatus s.cfg h.receiverStatus, r, crcOk⟩ (s.drew (draws + freeDraws (headerRecord s.hdr))))
    else .refused .notSelected

/-- The five message ids are pairwise distinct (30_encoding R102). -/
def idsDistinct (c : Config) : Bool :=
  decide [c.msgidBestpos, c.msgidRange, c.msgidTrackstat, c.msgidBestxyz, c.msgidSatxyz].Nodup

/-- The id is none of the five (R102, R201). -/
def isUnknownId (c : Config) (id : Word16) : Bool :=
  id != c.msgidBestpos && id != c.msgidBestxyz && id != c.msgidSatxyz && id != c.msgidTrackstat && id != c.msgidRange

/-! ## The transport request -/

/-- One request to the transport (44_reader R263): its answer, and the state in which the request has been counted.
The answer is the queue's next, and a free value when the queue is empty (R261; log 4). -/
def request (s : State) : EventWord × State :=
  match s.transport with
  | w :: rest => (w, { s with transport := rest, nRead := s.nRead + 1 })
  | [] => (encodeTransport (Config.freeAnswer s.draw), { s with draw := s.draw + 1, nRead := s.nRead + 1 })

end Sys2Proof.Machine
end

