-- ==== Sys2Proof/Machine/Square.lean ====
section
/-! DEFINITION. The covariance square: IEEE 754 binary64 of the exact square of a binary32 value (43_decoder R211).
The product is exact for every non-NaN operand, so it is computed on integers and no rounding occurs. -/

namespace Sys2Proof.Machine

/-- The biased exponent of a binary32 pattern. -/
def f32Exponent (s : Word32) : Nat := (s.extractLsb' 23 8).toNat

/-- The fraction field of a binary32 pattern. -/
def f32Fraction (s : Word32) : Nat := (s.extractLsb' 0 23).toNat

/-- The pattern is a NaN. -/
def f32IsNan (s : Word32) : Bool := f32Exponent s == 255 && f32Fraction s != 0

/-- The pattern is an infinity. -/
def f32IsInf (s : Word32) : Bool := f32Exponent s == 255 && f32Fraction s == 0

/-- The significand of a finite binary32 pattern as an integer: its value is this times 2 ^ (e - 150), e being the
exponent field, or 1 for a subnormal. -/
def f32Significand (s : Word32) : Nat :=
  if f32Exponent s = 0 then f32Fraction s else 2 ^ 23 + f32Fraction s

/-- The binary64 pattern of the positive number q * 2 ^ (e2 - 300), for 0 < q < 2 ^ 53, its exponent in range: the
leading one of q, at bit l, becomes the implicit one. -/
def f64OfSquare (q e2 : Nat) : Word64 :=
  BitVec.ofNat 64 ((e2 + 723 + Nat.log2 q) * 2 ^ 52 + (q - 2 ^ Nat.log2 q) * 2 ^ (52 - Nat.log2 q))

/-- FREE VALUE: the NaN pattern with draw index `k`, any binary64 NaN and nothing else (R211; log 6). -/
def freeNan (k : Nat) : Word64 :=
  (if Config.freeNanSign k then 0xFFF0000000000000#64 else 0x7FF0000000000000#64)
    ||| BitVec.ofNat 64 ((Config.freeNanFraction k).val + 1)

/-- `square64(s)` (R211), with draw index `k` for the NaN it may need. -/
def square64 (k : Nat) (s : Word32) : Word64 :=
  if f32IsNan s then freeNan k
  else if f32IsInf s then 0x7FF0000000000000#64
  else if f32Significand s = 0 then 0x0000000000000000#64
  else f64OfSquare (f32Significand s * f32Significand s) (2 * max (f32Exponent s) 1)

/-! ## The values the patterns stand for, for statements about exactness -/

/-- The pattern is a binary64 NaN. -/
def f64IsNan (v : Word64) : Bool := (v.extractLsb' 52 11).toNat == 2047 && (v.extractLsb' 0 52).toNat != 0

/-- The magnitude of a finite binary32 pattern (IEEE 754). -/
def f32Magnitude (s : Word32) : ℚ := (f32Significand s : ℚ) * (2 : ℚ) ^ ((max (f32Exponent s) 1 : ℤ) - 150)

/-- The value of a finite binary64 pattern (IEEE 754). -/
def f64Value (v : Word64) : ℚ :=
  let e := (v.extractLsb' 52 11).toNat
  let f := (v.extractLsb' 0 52).toNat
  (if v.msb then -1 else 1) * ((if e = 0 then f else 2 ^ 52 + f : ℕ) : ℚ) * (2 : ℚ) ^ ((max e 1 : ℤ) - 1075)

end Sys2Proof.Machine
end

