-- ==== Sys2Proof/Machine/Internal.lean ====
section
/-! DEFINITION. The internal functions as operations of their own: UNPACK, CRC32, TABLE_VALUE, BSWAP32, SQUARE64. Each
returns its value and writes no state of the block (40_crc R120, R121, R124; 43_decoder R206, R211); the model holds
the value in `fnResult` (log 9). -/

namespace Sys2Proof.Machine

/-- The function returns `r`. -/
def State.return (s : State) (r : FnResult) : State := { s with fnResult := some r }

/-- UNPACK (R206). -/
def execUnpack (w : Word32) (table : BitTable) (s : State) : Result := .next (s.return (.fields (unpack w table)))

/-- CRC32 (R122). -/
def execCrc32 (bytes : List Byte) (s : State) : Result := .next (s.return (.word (crc32 bytes)))

/-- TABLE_VALUE (R121). -/
def execTableValue (i : Byte) (s : State) : Result := .next (s.return (.word (tableValue (i.setWidth 32))))

/-- BSWAP32 (R124). -/
def execBswap32 (v : Word32) (s : State) : Result := .next (s.return (.word (bswap32 v)))

/-- SQUARE64 (R211); it may take one free value. -/
def execSquare64 (w : Word32) (s : State) : Result :=
  .next { s.return (.double (square64 s.draw w)) with draw := s.draw + 1 }

end Sys2Proof.Machine
end

