-- ==== Sys2Proof/Machine/Decoder.lean ====
section
/-! DEFINITION. The MessageDecoder: the five decoders and DISPATCH (43_decoder). A decoder answers `none` only where it
would read outside the payload, which R204 and R251 rule out for a layout whose entries fit their stride. DISPATCH does
not look at S.call_active (DESIGN CHOICE, log 26) nor whether FRAME_END runs it (DESIGN CHOICE, log 28). -/

namespace Sys2Proof.Machine

/-- What a decoder answers: an error, or a complete record (R205). -/
abbrev Answer (α : Type) := Option (Except DecodeError α)

/-- The entries of a repeated group in increasing order: `n` of them, the first at `e`, `stride` apart (R250). -/
def readGroup {α : Type} (entry : Nat → Option α) (stride : Nat) : Nat → Nat → Option (List α)
  | 0, _ => some []
  | n + 1, e => do
    let x ← entry e
    let xs ← readGroup entry stride n (e + stride)
    pure (x :: xs)

/-- The strides of SatXyz, TrackStat and Range (R250). -/
def satStride : Nat := 68
/-- See `satStride`. -/
def trackStride : Nat := 40
/-- See `satStride`. -/
def rangeStride : Nat := 44

/-! ## Fixed-width records -/

/-- The fields of a BestPos record (R203, R210), with the draw index of its first square (R211). -/
def readBestPos (l : BestPosLayout) (k : Nat) (p : Payload) : Option BestPos := do
  let solutionStatus ← payUnsigned p l.solutionStatus
  let positionType ← payUnsigned p l.positionType
  let latitude ← payF64 p l.latitude
  let longitude ← payF64 p l.longitude
  let altitude ← payF64 p l.altitude
  let stdevLatitude ← payF32 p l.stdevLatitude
  let stdevLongitude ← payF32 p l.stdevLongitude
  let stdevAltitude ← payF32 p l.stdevAltitude
  let numSatsTracked ← payUnsigned p l.numSatsTracked
  let numSatsUsed ← payUnsigned p l.numSatsUsed
  pure { solutionStatus, positionType, latitude, longitude, altitude, stdevLatitude, stdevLongitude,
         stdevAltitude, numSatsTracked, numSatsUsed,
         covarLatitude := square64 k stdevLatitude,
         covarLongitude := square64 (k + 1) stdevLongitude,
         covarAltitude := square64 (k + 2) stdevAltitude }

/-- DEC_BESTPOS (R204, R210). -/
def decBestPos (l : BestPosLayout) (k : Nat) (p : Payload) : Answer BestPos :=
  if p.len < bestPosMinLen l then some (.error .payloadTooShort) else (readBestPos l k p).map .ok

/-- The fields of a BestXyz record (R203, R215). -/
def readBestXyz (l : BestXyzLayout) (p : Payload) : Option BestXyz := do
  let positionStatus ← payUnsigned p l.positionStatus
  let positionType ← payUnsigned p l.positionType
  let positionX ← payF64 p l.positionX
  let positionY ← payF64 p l.positionY
  let positionZ ← payF64 p l.positionZ
  let positionSigmaX ← payF32 p l.positionSigmaX
  let positionSigmaY ← payF32 p l.positionSigmaY
  let positionSigmaZ ← payF32 p l.positionSigmaZ
  let velocityStatus ← payUnsigned p l.velocityStatus
  let velocityType ← payUnsigned p l.velocityType
  let velocityX ← payF64 p l.velocityX
  let velocityY ← payF64 p l.velocityY
  let velocityZ ← payF64 p l.velocityZ
  let velocitySigmaX ← payF32 p l.velocitySigmaX
  let velocitySigmaY ← payF32 p l.velocitySigmaY
  let velocitySigmaZ ← payF32 p l.velocitySigmaZ
  let numSatsTracked ← payUnsigned p l.numSatsTracked
  let numSatsUsed ← payUnsigned p l.numSatsUsed
  pure { positionStatus, positionType, positionX, positionY, positionZ, positionSigmaX, positionSigmaY,
         positionSigmaZ, velocityStatus, velocityType, velocityX, velocityY, velocityZ, velocitySigmaX,
         velocitySigmaY, velocitySigmaZ, numSatsTracked, numSatsUsed }

/-- DEC_BESTXYZ (R204, R215). -/
def decBestXyz (l : BestXyzLayout) (p : Payload) : Answer BestXyz :=
  if p.len < bestXyzMinLen l then some (.error .payloadTooShort) else (readBestXyz l p).map .ok

/-! ## Variable-width records -/

/-- The SatXyz entry at payload offset `e` (R220, R222). -/
def satEntry (l : SatXyzLayout) (p : Payload) (e : Nat) : Option SatEntry := do
  let prn ← payU32 p (e + l.prn)
  let x ← payF64 p (e + l.x)
  let y ← payF64 p (e + l.y)
  let z ← payF64 p (e + l.z)
  let clockCorrection ← payF64 p (e + l.clockCorrection)
  let ionosphericCorrection ← payF64 p (e + l.ionosphericCorrection)
  let troposphericCorrection ← payF64 p (e + l.troposphericCorrection)
  pure { prn, x, y, z, clockCorrection, ionosphericCorrection, troposphericCorrection }

/-- DEC_SATXYZ (R220-R224); the bound is evaluated without wrap-around (R251). -/
def decSatXyz (l : SatXyzLayout) (p : Payload) : Answer SatXyz :=
  if p.len < satXyzMinLen l then some (.error .payloadTooShort)
  else match payU32 p l.numSatellites with
    | none => none
    | some n =>
      if p.len < l.base + n.toNat * satStride then some (.error .countFieldOutOfBounds)
      else (readGroup (satEntry l p) satStride n.toNat l.base).map fun es => .ok ⟨n, es⟩

/-- The TrackStat entry at payload offset `e` (R230, R233). -/
def trackEntry (c : Config) (l : TrackStatLayout) (p : Payload) (e : Nat) : Option TrackEntry := do
  let prn ← payI16 p (e + l.prn)
  let w ← payU32 p (e + l.trackingStatus)
  let pseudorange ← payF64 p (e + l.pseudorange)
  let doppler ← payF32 p (e + l.doppler)
  let cn0 ← payF32 p (e + l.cn0)
  let locktime ← payF32 p (e + l.locktime)
  let psrResidual ← payF32 p (e + l.psrResidual)
  let psrWeight ← payF32 p (e + l.psrWeight)
  pure { prn, trackingStatus := trackingStatus c w, pseudorange, doppler, cn0, locktime, psrResidual, psrWeight }

/-- TrackStat's fixed part: the record with no channel yet (R231, R232). -/
def readTrackFixed (l : TrackStatLayout) (p : Payload) : Option TrackStat := do
  let solutionStatus ← payUnsigned p l.solutionStatus
  let positionType ← payUnsigned p l.positionType
  let elevationCutoff ← payF32 p l.elevationCutoff
  let numChannels ← payI32 p l.numChannels
  pure { solutionStatus, positionType, elevationCutoff, numChannels, channels := [] }

/-- DEC_TRACKSTAT (R230-R234): the count is signed, and a negative one is out of bounds. -/
def decTrackStat (c : Config) (l : TrackStatLayout) (p : Payload) : Answer TrackStat :=
  if p.len < trackStatMinLen l then some (.error .payloadTooShort)
  else match readTrackFixed l p with
    | none => none
    | some r =>
      if r.numChannels < 0 ∨ (p.len : Int) < l.base + r.numChannels * trackStride then
        some (.error .countFieldOutOfBounds)
      else
        (readGroup (trackEntry c l p) trackStride r.numChannels.toNat l.base).map fun es =>
          .ok { r with channels := es }

/-- The Range entry at payload offset `e` (R240, R243). -/
def rangeEntry (c : Config) (l : RangeLayout) (p : Payload) (e : Nat) : Option RangeEntry := do
  let prn ← payU16 p (e + l.prn)
  let pseudorange ← payF64 p (e + l.pseudorange)
  let pseudorangeStdev ← payF32 p (e + l.pseudorangeStdev)
  let adr ← payF64 p (e + l.adr)
  let adrStdev ← payF32 p (e + l.adrStdev)
  let doppler ← payF32 p (e + l.doppler)
  let cn0 ← payF32 p (e + l.cn0)
  let locktime ← payF32 p (e + l.locktime)
  let w ← payU32 p (e + l.trackingStatus)
  pure { prn, pseudorange, pseudorangeStdev, adr, adrStdev, doppler, cn0, locktime,
         trackingStatus := trackingStatus c w }

/-- DEC_RANGE (R240-R244). -/
def decRange (c : Config) (l : RangeLayout) (p : Payload) : Answer RangeRecord :=
  if p.len < rangeMinLen l then some (.error .payloadTooShort)
  else match payU16 p l.numObservations with
    | none => none
    | some n =>
      if p.len < l.base + n.toNat * rangeStride then some (.error .countFieldOutOfBounds)
      else (readGroup (rangeEntry c l p) rangeStride n.toNat l.base).map fun es => .ok ⟨n, es⟩

/-! ## DISPATCH (R200) -/

/-- A decoder's answer as one of the five record types. -/
def asRecord {α : Type} (mk : α → Record) : Answer α → Answer Record
  | none => none
  | some (.error e) => some (.error e)
  | some (.ok r) => some (.ok (mk r))

/-- DISPATCH_BESTPOS (R200, R210); its three squares may take three free values. -/
def execDispatchBestpos (crcOk : Bool) (s : State) : Result :=
  dispatchWith (fun c id => id == c.msgidBestpos)
    (fun t p => asRecord .bestPos (decBestPos t.cfg.layout.bestPos t.draw p)) 3 crcOk s

/-- DISPATCH_BESTXYZ (R200, R215). -/
def execDispatchBestxyz (crcOk : Bool) (s : State) : Result :=
  dispatchWith (fun c id => id == c.msgidBestxyz)
    (fun t p => asRecord .bestXyz (decBestXyz t.cfg.layout.bestXyz p)) 0 crcOk s

/-- DISPATCH_SATXYZ (R200, R220). -/
def execDispatchSatxyz (crcOk : Bool) (s : State) : Result :=
  dispatchWith (fun c id => id == c.msgidSatxyz)
    (fun t p => asRecord .satXyz (decSatXyz t.cfg.layout.satXyz p)) 0 crcOk s

/-- DISPATCH_TRACKSTAT (R200, R230). -/
def execDispatchTrackstat (crcOk : Bool) (s : State) : Result :=
  dispatchWith (fun c id => id == c.msgidTrackstat)
    (fun t p => asRecord .trackStat (decTrackStat t.cfg t.cfg.layout.trackStat p)) 0 crcOk s

/-- DISPATCH_RANGE (R200, R240). -/
def execDispatchRange (crcOk : Bool) (s : State) : Result :=
  dispatchWith (fun c id => id == c.msgidRange)
    (fun t p => asRecord .range (decRange t.cfg t.cfg.layout.range p)) 0 crcOk s

/-- DISPATCH_UNKNOWN (R200, R201): the frame is discarded, with no record, and the call goes on. DESIGN CHOICE
(log 28): executed on its own, it does not look at S.phase or S.crcb and takes crc_ok as it is given. -/
def execDispatchUnknown (crcOk : Bool) (s : State) : Result :=
  readRegister s.hdr.messageId 4 s fun id =>
    if isUnknownId s.cfg id && passesPolicy s.cfg crcOk then discard .unknownMessageId s
    else .refused .notSelected

/-- The DISPATCH row that the message id selects, the tests in R200's order. -/
def dispatch (id : Word16) (crcOk : Bool) (s : State) : Result :=
  if id = s.cfg.msgidBestpos then execDispatchBestpos crcOk s
  else if id = s.cfg.msgidBestxyz then execDispatchBestxyz crcOk s
  else if id = s.cfg.msgidSatxyz then execDispatchSatxyz crcOk s
  else if id = s.cfg.msgidTrackstat then execDispatchTrackstat crcOk s
  else if id = s.cfg.msgidRange then execDispatchRange crcOk s
  else execDispatchUnknown crcOk s

end Sys2Proof.Machine
end

