-- ==== Sys2Proof/Machine/PayloadValidate.lean ====
section
/-! DEFINITION. PayloadAccumulator and FrameValidator: PAYLOAD_BYTE, PAYLOAD_LAST, CRC_BYTE, CRC_LAST, FRAME_END
(42_payload_validate). They do not look at S.call_active (DESIGN CHOICE, log 26). -/

namespace Sys2Proof.Machine

/-- `MemWrite(28 + L - r, 1, v)`, the next payload address (R171, R172). -/
def storePayload (r : Nat) (v : Byte) (s : State) : Result :=
  readRegister s.hdr.messageLength 8 s fun len =>
    if r ≤ 28 + len.toNat then memWrite (28 + len.toNat - r) v s else .fault .bufferAddress

/-- PAYLOAD_BYTE (R171). -/
def execPayloadByte (v : Byte) (s : State) : Result :=
  match s.phase with
  | .payload r =>
    if h : 2 ≤ r.val then
      andThen (storePayload r.val v s) fun t => .next (t.setPhase (.payload ⟨r.val - 1, by omega, by omega⟩))
    else .refused .notSelected
  | _ => .refused .notSelected

/-- PAYLOAD_LAST (R172). -/
def execPayloadLast (v : Byte) (s : State) : Result :=
  match s.phase with
  | .payload r =>
    if r.val = 1 then andThen (storePayload 1 v s) fun t => .next (t.setPhase (.crc 0))
    else .refused .notSelected
  | _ => .refused .notSelected

/-- CRC_BYTE (R174). -/
def execCrcByte (v : Byte) (s : State) : Result :=
  match s.phase with
  | .crc p =>
    if h : p.val < 3 then .next { s with crcb := s.crcb ++ [v], phase := .crc ⟨p.val + 1, by omega⟩ }
    else .refused .notSelected
  | _ => .refused .notSelected

/-- FRAME_END (R180): run with the four CRC bytes received; executed on its own, it does not look at S.phase (DESIGN
CHOICE, log 28). A mismatch under Strict is a discard (R181); otherwise
DISPATCH ends the frame (R182, R200). -/
def execFrameEnd (s : State) : Result :=
  match wireCrc s.crcb with
  | none => .refused .notSelected
  | some wire =>
    let crcOk := crcOkOf wire (Memory.bytes s.buf)
    if passesPolicy s.cfg crcOk then
      readRegister s.hdr.messageId 4 s fun id => dispatch id crcOk s
    else discard .crcMismatch s

/-- CRC_LAST (R175): the fourth CRC byte, and FRAME_END in the same step. -/
def execCrcLast (v : Byte) (s : State) : Result :=
  match s.phase with
  | .crc p => if p.val = 3 then execFrameEnd { s with crcb := s.crcb ++ [v] } else .refused .notSelected
  | _ => .refused .notSelected

end Sys2Proof.Machine
end

