-- ==== Sys2Proof/Machine/SyncHeader.lean ====
section
/-! DEFINITION. FrameSynchronizer and HeaderParser: SYNC_MATCH, SYNC_COMPLETE, SYNC_MISMATCH, HDRLEN_OK, HDRLEN_BAD,
HDR_BYTE, HDR_LAST (41_sync_header). They do not look at S.call_active (DESIGN CHOICE, log 26). -/

namespace Sys2Proof.Machine

/-- SYNC_MATCH (R141). -/
def execSyncMatch (v : Byte) (s : State) : Result :=
  match s.phase with
  | .sync p =>
    if h : p.val < 2 then
      if v = syncByte s.cfg p then
        andThen (memWrite p.val v s) fun t => .next (t.setPhase (.sync ⟨p.val + 1, by omega⟩))
      else .refused .notSelected
    else .refused .notSelected
  | _ => .refused .notSelected

/-- SYNC_COMPLETE (R142). -/
def execSyncComplete (v : Byte) (s : State) : Result :=
  match s.phase with
  | .sync p =>
    if p.val = 2 ∧ v = syncByte s.cfg p then
      andThen (memWrite 2 v s) fun t => .next (t.setPhase (.header ⟨3, by omega⟩))
    else .refused .notSelected
  | _ => .refused .notSelected

/-- SYNC_MISMATCH (R143): the byte is dropped and not examined again. -/
def execSyncMismatch (v : Byte) (s : State) : Result :=
  match s.phase with
  | .sync p => if v ≠ syncByte s.cfg p then discard .syncLost s else .refused .notSelected
  | _ => .refused .notSelected

/-- HDRLEN_OK (R144). -/
def execHdrlenOk (v : Byte) (s : State) : Result :=
  match s.phase with
  | .header p =>
    if p.val = 3 ∧ v = 28#8 then
      andThen (memWrite 3 v s) fun t =>
      andThen (writeHeaderRegister 3 v t) fun u => .next (u.setPhase (.header ⟨4, by omega⟩))
    else .refused .notSelected
  | _ => .refused .notSelected

/-- HDRLEN_BAD (R145): the sync bytes and the byte are dropped. -/
def execHdrlenBad (v : Byte) (s : State) : Result :=
  match s.phase with
  | .header p => if p.val = 3 ∧ v ≠ 28#8 then discard .invalidHeaderLength s else .refused .notSelected
  | _ => .refused .notSelected

/-- `check_length()` and then the phase `next`, unless the check discards (R146, R149, R150, R152). -/
def checkLength (next : Phase) (s : State) : Result :=
  readRegister s.hdr.messageLength 8 s fun len =>
    match lengthError s.cfg len with
    | some code => discard code s
    | none => .next (s.setPhase next)

/-- HDR_BYTE (R146). -/
def execHdrByte (v : Byte) (s : State) : Result :=
  match s.phase with
  | .header p =>
    if h : 4 ≤ p.val ∧ p.val ≤ 26 then
      andThen (memWrite p.val v s) fun t =>
      andThen (writeHeaderRegister p.val v t) fun u =>
        if p.val = 9 then checkLength (.header ⟨p.val + 1, by omega⟩) u
        else .next (u.setPhase (.header ⟨p.val + 1, by omega⟩))
    else .refused .notSelected
  | _ => .refused .notSelected

/-- `S.phase <- Payload{S.hdr.message_length}` (R153). A length of 0 is no argument of `Payload` (10_state R22), and
R149 has discarded such a frame (log 24). -/
def startPayload (s : State) : Result :=
  readRegister s.hdr.messageLength 8 s fun len =>
    if h : 1 ≤ len.toNat then .next (s.setPhase (.payload ⟨len.toNat, h, by omega⟩))
    else .fault .phaseArgument

/-- HDR_LAST (R153). -/
def execHdrLast (v : Byte) (s : State) : Result :=
  match s.phase with
  | .header p =>
    if p.val = 27 then
      andThen (memWrite 27 v s) fun t => andThen (writeHeaderRegister 27 v t) startPayload
    else .refused .notSelected
  | _ => .refused .notSelected

end Sys2Proof.Machine
end

