-- ==== Sys2Proof/Machine/Reader.lean ====
section
/-! DEFINITION. The FrameReader: DECODE_NEXT, READ, EV_BYTE, EV_TIMEOUT, EV_FAIL, EV_RESERVED (44_reader), and what a
step of the machine fetches. The spec gives an event's step only during an active call (R276). DESIGN CHOICE (log 26):
executed on their own with no call active, the events and the operations they run act on the framing state as in a call;
no step of the machine does that. -/

namespace Sys2Proof.Machine

/-- DECODE_NEXT (R262): the call starts. Its READs are the steps that follow (R276; log 17). -/
def execDecodeNext (s : State) : Result :=
  if s.callActive then .refused .reentrantCall
  else .next { s with callActive := true, nRead := 0 }

/-- BYTE_STEP(v): the one operation that the framing state selects (R264). -/
def byteStep (v : Byte) (s : State) : Result :=
  match s.phase with
  | .sync p =>
    if v = syncByte s.cfg p then (if p.val = 2 then execSyncComplete v s else execSyncMatch v s)
    else execSyncMismatch v s
  | .header p =>
    if p.val = 3 then (if v = 28#8 then execHdrlenOk v s else execHdrlenBad v s)
    else if p.val = 27 then execHdrLast v s
    else execHdrByte v s
  | .payload r => if r.val = 1 then execPayloadLast v s else execPayloadByte v s
  | .crc p => if p.val = 3 then execCrcLast v s else execCrcByte v s

/-- EV_BYTE (R264). With no call active: the same (DESIGN CHOICE, log 26). -/
def execEvByte (v : Byte) (s : State) : Result := byteStep v s

/-- EV_TIMEOUT (R267): no state changes; the request has been counted, and the next READ is the next step. With no
call active: the same (DESIGN CHOICE, log 26). -/
def execEvTimeout (_ignored : Byte) (s : State) : Result := .next s

/-- EV_FAIL (R268): the call ends with TransportError; the framing state and the status are kept. With
no call active, the result is delivered although no call ends (DESIGN CHOICE, log 26). -/
def execEvFail (_ignored : Byte) (s : State) : Result := .next (s.endCall (.error .transportError))

/-- EV_RESERVED (30_encoding R101): refused. -/
def execEvReserved (_ignored : Byte) (_s : State) : Result := .refused .reservedEventKind

/-- The event an answer spells (R100, R263). -/
def runEvent (w : EventWord) (s : State) : Result :=
  if eventKind w = 0#2 then execEvByte (eventLow w) s
  else if eventKind w = 1#2 then execEvTimeout (eventLow w) s
  else if eventKind w = 2#2 then execEvFail (eventLow w) s
  else execEvReserved (eventLow w) s

/-- READ (R263): NoFrameYet at the ceiling (R269), else one request and the event that answers it. -/
def execRead (s : State) : Result :=
  if s.callActive then
    if s.nRead = s.cfg.maxBytesPerCall then .next (s.endCall .noFrameYet)
    else runEvent (request s).1 (request s).2
  else .refused .notSelected

/-! ## What the next step runs -/

/-- What a step finds to do. -/
inductive Fetched
  /-- Run the operation in the state. -/
  | run (i : Instr) (s : State)
  /-- No call is active and the host makes none: the block holds its state (60_exceptions R314). -/
  | idle
  /-- The configuration is refused (30_encoding R102). -/
  | refuse (r : Refusal)
  deriving DecidableEq, Repr

/-- In a call: READ's end of the call at the ceiling, or the event that answers the request (R263). -/
def fetchRead (s : State) : Fetched :=
  if s.nRead = s.cfg.maxBytesPerCall then .run .read s
  else .run (decodeEvent (request s).1) (request s).2

/-- With no call to make: go on with the active call, or hold the state. -/
def fetchNoCall (s : State) : Fetched := if s.callActive then fetchRead s else .idle

/-- What the machine does next: the host's call if the host makes one (log 7), else the active call's next READ. -/
def fetch (s : State) : Fetched :=
  if idsDistinct s.cfg then
    match s.host with
    | .immediate :: rest => .run .decodeNext { s with host := rest }
    | .serialized :: rest => if s.callActive then fetchRead s else .run .decodeNext { s with host := rest }
    | [] => fetchNoCall s
  else .refuse .equalMessageIds

/-- Hand an event word to the machine so that the very next step fetches it: it becomes the transport's next answer
and a call is active and below its ceiling; a host that would call at once is held back (log 20). -/
def placeEvent (w : EventWord) (s : State) : State :=
  { s with
    transport := w :: s.transport
    callActive := true
    nRead := if s.nRead < s.cfg.maxBytesPerCall then s.nRead else 0
    cfg := if s.cfg.maxBytesPerCall = 0 then { s.cfg with maxBytesPerCall := 1 } else s.cfg
    host := match s.host with
      | .immediate :: _ => []
      | h => h }

end Sys2Proof.Machine
end

