-- ==== Sys2Proof/Machine/Dispatch.lean ====
section
/-! DEFINITION. One arm per operation of the opcode table (30_encoding R104). -/

namespace Sys2Proof.Machine

def exec (i : Instr) (s : State) : Host.Outcome State Fault Refusal :=
  match i with
  | .decodeNext => Sys2Proof.Machine.execDecodeNext s
  | .read => Sys2Proof.Machine.execRead s
  | .evByte v => Sys2Proof.Machine.execEvByte v s
  | .evTimeout ignored => Sys2Proof.Machine.execEvTimeout ignored s
  | .evFail ignored => Sys2Proof.Machine.execEvFail ignored s
  | .evReserved ignored => Sys2Proof.Machine.execEvReserved ignored s
  | .syncMatch v => Sys2Proof.Machine.execSyncMatch v s
  | .syncComplete v => Sys2Proof.Machine.execSyncComplete v s
  | .syncMismatch v => Sys2Proof.Machine.execSyncMismatch v s
  | .hdrlenOk v => Sys2Proof.Machine.execHdrlenOk v s
  | .hdrlenBad v => Sys2Proof.Machine.execHdrlenBad v s
  | .hdrByte v => Sys2Proof.Machine.execHdrByte v s
  | .hdrLast v => Sys2Proof.Machine.execHdrLast v s
  | .payloadByte v => Sys2Proof.Machine.execPayloadByte v s
  | .payloadLast v => Sys2Proof.Machine.execPayloadLast v s
  | .crcByte v => Sys2Proof.Machine.execCrcByte v s
  | .crcLast v => Sys2Proof.Machine.execCrcLast v s
  | .frameEnd => Sys2Proof.Machine.execFrameEnd s
  | .dispatchBestpos crcOk => Sys2Proof.Machine.execDispatchBestpos crcOk s
  | .dispatchRange crcOk => Sys2Proof.Machine.execDispatchRange crcOk s
  | .dispatchTrackstat crcOk => Sys2Proof.Machine.execDispatchTrackstat crcOk s
  | .dispatchBestxyz crcOk => Sys2Proof.Machine.execDispatchBestxyz crcOk s
  | .dispatchSatxyz crcOk => Sys2Proof.Machine.execDispatchSatxyz crcOk s
  | .dispatchUnknown crcOk => Sys2Proof.Machine.execDispatchUnknown crcOk s
  | .unpack w table => Sys2Proof.Machine.execUnpack w table s
  | .crc32 bytes => Sys2Proof.Machine.execCrc32 bytes s
  | .tableValue x => Sys2Proof.Machine.execTableValue x s
  | .bswap32 v => Sys2Proof.Machine.execBswap32 v s
  | .square64 w => Sys2Proof.Machine.execSquare64 w s

end Sys2Proof.Machine
end

