-- ==== Sys2Proof/Machine/Step.lean ====
section
/-! DEFINITION. One step of the machine (44_reader R276): what it finds to do, done. -/

namespace Sys2Proof.Machine

/-- One step: the fetched operation in the fetched state, or nothing when the block is idle. -/
def step (s : State) : Host.Outcome State Fault Refusal :=
  match fetch s with
  | .run i t => exec i t
  | .idle => .next s
  | .refuse r => .refused r

/-- `s` with the event word of a table word placed where the next step fetches it (log 16, log 20). -/
def State.withFetchWord (s : State) (_nbits w : Nat) : State := placeEvent (BitVec.ofNat 10 w) s

end Sys2Proof.Machine
end

