-- ==== Sys2Proof/Safety.lean ====
section
/-! DEFINITION. What statements about the machine are made of: the block's invariants (10_state R32), the conditions
under which it neither faults nor refuses (44_reader R276), and frames as byte sequences (30_encoding R70). -/

namespace Sys2Proof.Machine

/-! ## The invariants -/

/-- The header registers that a buffer's bytes determine: each holds the little-endian assembly of its bytes once the
last of them has arrived, and is unwritten before (R24). -/
def headerOf (m : Memory) : Header where
  headerLength := Memory.read m 3
  messageId := Memory.read16 m 4
  messageType := Memory.read m 6
  portAddress := Memory.read m 7
  messageLength := Memory.read16 m 8
  sequence := Memory.read16 m 10
  idleTime := Memory.read m 12
  timeStatus := Memory.read m 13
  gpsWeek := Memory.read16 m 14
  gpsMilliseconds := Memory.read32 m 16
  receiverStatus := Memory.read32 m 20
  reserved := Memory.read16 m 24
  receiverSwVersion := Memory.read16 m 26

/-- R32 (a) to (d): the lengths of the buffer and of the CRC bytes in each phase. -/
def State.framed (s : State) : Bool :=
  match s.phase with
  | .sync p => decide (s.buf.length = p.val ∧ s.crcb.length = 0)
  | .header p => decide (s.buf.length = p.val ∧ s.crcb.length = 0)
  | .payload r => match s.hdr.messageLength with
    | none => false
    | some len => decide (r.val ≤ len.toNat ∧ s.buf.length + r.val = 28 + len.toNat ∧ s.crcb.length = 0)
  | .crc p => match s.hdr.messageLength with
    | none => false
    | some len => decide (s.buf.length = 28 + len.toNat ∧ s.crcb.length = p.val)

/-- R32 (e), which holds from the byte that was checked on: a stored header length is 28, and a stored message length
lies in 1 .. PAYLOAD_CAP. -/
def State.lengthsChecked (s : State) : Bool :=
  (match s.hdr.headerLength with
    | none => true
    | some v => v == 28#8) &&
  (match s.hdr.messageLength with
    | none => true
    | some len => decide (1 ≤ len.toNat ∧ len.toNat ≤ s.cfg.payloadCap))

/-- R32 (f): each sync byte the buffer holds is the configuration's. -/
def State.syncStored (s : State) : Bool :=
  (match Memory.read s.buf 0 with
    | none => true
    | some v => v == s.cfg.sync0) &&
  (match Memory.read s.buf 1 with
    | none => true
    | some v => v == s.cfg.sync1) &&
  (match Memory.read s.buf 2 with
    | none => true
    | some v => v == s.cfg.sync2)

/-- The invariants of R32, with what they rest on: the buffer's canonical form (20_memory R50, R52), the header bank
determined by the buffer (R24), n_read at most the ceiling (R29), and a status code of R27's table. -/
abbrev State.Inv (s : State) : Prop :=
  Memory.wf s.buf = true ∧ s.hdr = headerOf s.buf ∧ s.framed = true ∧ s.lengthsChecked = true ∧
    s.syncStored = true ∧ s.nRead ≤ s.cfg.maxBytesPerCall ∧ s.status.toNat ≤ 10

/-! ## Legal layouts, and states in which a step is taken -/

/-- Every entry layout fits its stride (30_encoding R80, 43_decoder R251). -/
def layoutFits (l : Layout) : Bool :=
  decide (l.satXyz.prn + 4 ≤ satStride ∧ l.satXyz.x + 8 ≤ satStride ∧ l.satXyz.y + 8 ≤ satStride ∧
    l.satXyz.z + 8 ≤ satStride ∧ l.satXyz.clockCorrection + 8 ≤ satStride ∧
    l.satXyz.ionosphericCorrection + 8 ≤ satStride ∧ l.satXyz.troposphericCorrection + 8 ≤ satStride) &&
  decide (l.trackStat.prn + 2 ≤ trackStride ∧ l.trackStat.trackingStatus + 4 ≤ trackStride ∧
    l.trackStat.pseudorange + 8 ≤ trackStride ∧ l.trackStat.doppler + 4 ≤ trackStride ∧
    l.trackStat.cn0 + 4 ≤ trackStride ∧ l.trackStat.locktime + 4 ≤ trackStride ∧
    l.trackStat.psrResidual + 4 ≤ trackStride ∧ l.trackStat.psrWeight + 4 ≤ trackStride) &&
  decide (l.range.prn + 2 ≤ rangeStride ∧ l.range.pseudorange + 8 ≤ rangeStride ∧
    l.range.pseudorangeStdev + 4 ≤ rangeStride ∧ l.range.adr + 8 ≤ rangeStride ∧
    l.range.adrStdev + 4 ≤ rangeStride ∧ l.range.doppler + 4 ≤ rangeStride ∧ l.range.cn0 + 4 ≤ rangeStride ∧
    l.range.locktime + 4 ≤ rangeStride ∧ l.range.trackingStatus + 4 ≤ rangeStride)

/-- The host does not call at once (70 R344). -/
def State.hostSerialized (s : State) : Bool :=
  match s.host with
  | .immediate :: _ => false
  | _ => true

/-- The transport's next answer is an event (R101). -/
def State.answerIsEvent (s : State) : Bool :=
  match s.transport with
  | [] => true
  | w :: _ => eventKind w != 3#2

/-- No answer in the queue is the reserved kind (R101). -/
def State.answersAreEvents (s : State) : Bool := s.transport.all fun w => eventKind w != 3#2

/-- No candidate frame is in progress: `Sync{0}`, buffer and CRC bytes empty, header registers unwritten (R53, R183). -/
abbrev State.noFrame (s : State) : Prop :=
  s.phase = .sync 0 ∧ s.buf = [] ∧ s.crcb = [] ∧ s.hdr = Header.unwritten

/-- The frame buffer holds a whole frame: header and payload are in the buffer, and the header registers are written
from them (42 R177, R180). `h` is the header record, L its message length. -/
abbrev State.holdsFrame (s : State) (h : HeaderRecord) : Prop :=
  Memory.wf s.buf = true ∧ headerRecord s.hdr = some h ∧ s.buf.length = 28 + h.messageLength.toNat

/-- The payload P of the frame in the buffer (43_decoder R202). -/
def State.payload (s : State) (h : HeaderRecord) : Payload := ⟨s.buf, h.messageLength.toNat⟩

/-- `frame_result(F, rec, crc_ok)` (R252, 44_reader R274). -/
def State.frameResult (s : State) (h : HeaderRecord) (r : Record) (crcOk : Bool) : DecodedFrame :=
  ⟨h, rxStatus s.cfg h.receiverStatus, r, crcOk⟩

/-- `f` carries the header and the receiver status of the frame held (41 R154, 43_decoder R208, 44_reader R274): each
field of its header record is what the register of that name holds, its raw status word is the register
receiver_status, and its flags are, entry by entry of RXSTATUS_TABLE, the one bit of that word that the entry names. -/
def State.delivers (s : State) (f : DecodedFrame) : Prop :=
  s.hdr.headerLength = some f.header.headerLength ∧ s.hdr.messageId = some f.header.messageId ∧
  s.hdr.messageType = some f.header.messageType ∧ s.hdr.portAddress = some f.header.portAddress ∧
  s.hdr.messageLength = some f.header.messageLength ∧ s.hdr.sequence = some f.header.sequence ∧
  s.hdr.idleTime = some f.header.idleTime ∧ s.hdr.timeStatus = some f.header.timeStatus ∧
  s.hdr.gpsWeek = some f.header.gpsWeek ∧ s.hdr.gpsMilliseconds = some f.header.gpsMilliseconds ∧
  s.hdr.receiverStatus = some f.header.receiverStatus ∧ s.hdr.reserved = some f.header.reserved ∧
  s.hdr.receiverSwVersion = some f.header.receiverSwVersion ∧
  s.hdr.receiverStatus = some f.receiverStatus.raw ∧
  f.receiverStatus.flags.length = s.cfg.rxStatusTable.length ∧
  ∀ (i : Nat) (b : FlagBit), s.cfg.rxStatusTable[i]? = some b →
    f.receiverStatus.flags[i]? = some (b.name, (f.receiverStatus.raw >>> b.bit) &&& 1#32)

/-- The state without its status register, for statements that nothing depends on it. -/
def State.forgetStatus (s : State) : State := { s with status := 0x0#4 }

/-! ## Unwritten header registers (10_state R25; log 11) -/

/-- The header bank with every register written. -/
def HeaderRecord.bank (r : HeaderRecord) : Header :=
  ⟨some r.headerLength, some r.messageId, some r.messageType, some r.portAddress, some r.messageLength,
    some r.sequence, some r.idleTime, some r.timeStatus, some r.gpsWeek, some r.gpsMilliseconds,
    some r.receiverStatus, some r.reserved, some r.receiverSwVersion⟩

/-- The record holds the value of every register that is written. -/
def Header.agrees (h : Header) (r : HeaderRecord) : Prop :=
  (∀ v, h.headerLength = some v → r.headerLength = v) ∧ (∀ v, h.messageId = some v → r.messageId = v) ∧
  (∀ v, h.messageType = some v → r.messageType = v) ∧ (∀ v, h.portAddress = some v → r.portAddress = v) ∧
  (∀ v, h.messageLength = some v → r.messageLength = v) ∧ (∀ v, h.sequence = some v → r.sequence = v) ∧
  (∀ v, h.idleTime = some v → r.idleTime = v) ∧ (∀ v, h.timeStatus = some v → r.timeStatus = v) ∧
  (∀ v, h.gpsWeek = some v → r.gpsWeek = v) ∧ (∀ v, h.gpsMilliseconds = some v → r.gpsMilliseconds = v) ∧
  (∀ v, h.receiverStatus = some v → r.receiverStatus = v) ∧ (∀ v, h.reserved = some v → r.reserved = v) ∧
  (∀ v, h.receiverSwVersion = some v → r.receiverSwVersion = v)

/-- The state without the draw counter, which is the model's own (log 5). -/
def State.forgetDraw (s : State) : State := { s with draw := 0 }

/-- Two answers that differ in the draw counter at most. -/
def sameButDraw (a b : Result) : Prop :=
  (nextState a).map State.forgetDraw = (nextState b).map State.forgetDraw ∧ faultOf a = faultOf b ∧
    refusalOf a = refusalOf b

/-- The operations that end a frame: CRC_LAST, FRAME_END and the DISPATCH rows. -/
def endsFrame : Instr → Bool
  | .crcLast _ | .frameEnd | .dispatchBestpos _ | .dispatchBestxyz _ | .dispatchSatxyz _ | .dispatchTrackstat _
  | .dispatchRange _ | .dispatchUnknown _ => true
  | _ => false

/-! ## Frames as byte sequences -/

/-- The buffer that holds a byte sequence from address 0 on (R50). -/
def memoryOf (bytes : List Byte) : Memory := (List.range bytes.length).zip bytes

/-- The four CRC bytes of a covered byte sequence as they stand on the wire, the computed CRC's most significant byte
first (42 R179). -/
def wireBytes (covered : List Byte) : List Byte :=
  [(crc32 covered).extractLsb' 24 8, (crc32 covered).extractLsb' 16 8,
   (crc32 covered).extractLsb' 8 8, (crc32 covered).extractLsb' 0 8]

/-- The bytes a frame's CRC covers: sync bytes, header-length byte, the other 24 header bytes, payload (R70). -/
def coveredBytes (c : Config) (rest : List Byte) (pay : List Byte) : List Byte :=
  [c.sync0, c.sync1, c.sync2, 28#8] ++ rest ++ pay

/-- The bytes arrive one after the other, each an EV_BYTE (44_reader R264). -/
def feedBytes : List Byte → State → Result
  | [], s => .next s
  | v :: vs, s => andThen (exec (.evByte v) s) (feedBytes vs)

/-- The number that bytes spell, the first the least significant (20_memory R54). -/
def leNat : List Byte → Nat
  | [] => 0
  | b :: bs => b.toNat + 256 * leNat bs

/-- One bit of one byte flipped: bit `j` of byte `i` (40_crc R126). -/
def flipBit (bytes : List Byte) (i : Nat) (j : Fin 8) : List Byte :=
  bytes.modify i fun b => b ^^^ (1#8 <<< j.val)

/-- The header bank after the byte `v` at offset `p`, as R147 and R148 have it, from the bytes stored before it. -/
def registerWritten (p : Nat) (v : Byte) (before : Memory) (old new : Header) : Prop :=
  match p with
  | 5 => ∃ b, Memory.read before 4 = some b ∧ new = { old with messageId := some (le16 b v) }
  | 6 => new = { old with messageType := some v }
  | 7 => new = { old with portAddress := some v }
  | 9 => ∃ b, Memory.read before 8 = some b ∧ new = { old with messageLength := some (le16 b v) }
  | 11 => ∃ b, Memory.read before 10 = some b ∧ new = { old with sequence := some (le16 b v) }
  | 12 => new = { old with idleTime := some v }
  | 13 => new = { old with timeStatus := some v }
  | 15 => ∃ b, Memory.read before 14 = some b ∧ new = { old with gpsWeek := some (le16 b v) }
  | 19 => ∃ b0 b1 b2, Memory.read before 16 = some b0 ∧ Memory.read before 17 = some b1 ∧
      Memory.read before 18 = some b2 ∧ new = { old with gpsMilliseconds := some (le32 b0 b1 b2 v) }
  | 23 => ∃ b0 b1 b2, Memory.read before 20 = some b0 ∧ Memory.read before 21 = some b1 ∧
      Memory.read before 22 = some b2 ∧ new = { old with receiverStatus := some (le32 b0 b1 b2 v) }
  | 25 => ∃ b, Memory.read before 24 = some b ∧ new = { old with reserved := some (le16 b v) }
  | 27 => ∃ b, Memory.read before 26 = some b ∧ new = { old with receiverSwVersion := some (le16 b v) }
  | _ => new = old

/-- The buffer with `v` appended, as a state. -/
def State.push (s : State) (v : Byte) : State := { s with buf := Memory.append s.buf v }

end Sys2Proof.Machine
end

