-- ==== Sys2Proof/Certificates/Slice0/Obligations.lean ====
section
/-! DEFINITION. The statements for the provers, in the order of OBLIGATIONS.json. Each docstring names the rules of
spec/ it formalises, or the log entry behind a clause that is the model's own. What a statement about a single operation
says of a state with no call active is the model's choice throughout (log 26), as is what one about FRAME_END or a
DISPATCH row says of a state in which the spec does not run it (log 28). -/

open Sys2Proof Sys2Proof.Machine

/-! ## Reset, invariants, whole-machine rules -/

/-- R35, R342: every field of the block after reset, whatever the configuration the instance is built with. An instance
built where a machine already stands has the same values and the new configuration, the transport keeps the answers it
holds, and in a call of the new instance the first READ takes the next of them. -/
def Obligations.ResetLeavesTheSpecsValues : Prop :=
  (∀ c : Config, (State.resetWith c).phase = .sync 0 ∧ (State.resetWith c).buf = [] ∧
    (State.resetWith c).hdr = ⟨none, none, none, none, none, none, none, none, none, none, none, none, none⟩ ∧
    (State.resetWith c).crcb = [] ∧ (State.resetWith c).status = 0x0#4 ∧
    (State.resetWith c).callActive = false ∧ (State.resetWith c).nRead = 0) ∧
  ∀ (s : State) (c : Config), (s.rebuiltWith c).phase = .sync 0 ∧ (s.rebuiltWith c).buf = [] ∧
    (s.rebuiltWith c).hdr = ⟨none, none, none, none, none, none, none, none, none, none, none, none, none⟩ ∧
    (s.rebuiltWith c).crcb = [] ∧ (s.rebuiltWith c).status = 0x0#4 ∧
    (s.rebuiltWith c).callActive = false ∧ (s.rebuiltWith c).nRead = 0 ∧
    (s.rebuiltWith c).cfg = c ∧ (s.rebuiltWith c).transport = s.transport ∧
    ∀ (w : EventWord) (rest : List EventWord), s.transport = w :: rest → c.maxBytesPerCall ≠ 0 →
      exec .read { s.rebuiltWith c with callActive := true } =
        exec (decodeEvent w) { s.rebuiltWith c with callActive := true, transport := rest, nRead := 1 }

/-- The invariants of R32 hold after reset, and after a reset of a machine in any state (R342). -/
def Obligations.InvariantHoldsAtReset : Prop :=
  (∀ c : Config, (State.resetWith c).Inv) ∧ ∀ (s : State) (c : Config), (s.rebuiltWith c).Inv

/-- Every step keeps the invariants of R32 (a) to (f), with the buffer's form (R50, R52), the header bank (R24), the
read count (R29) and the status code (R27); and so does every operation on its own. -/
def Obligations.EveryStepKeepsTheInvariant : Prop :=
  (∀ s t : State, s.Inv → step s = .next t → t.Inv) ∧
    (∀ (i : Instr) (s t : State), s.Inv → exec i s = .next t → t.Inv)

/-- R276: on legal states a step never faults, and it refuses exactly a configuration with equal message ids, a
reentrant call and the reserved event kind. -/
def Obligations.StepsStopOnlyWhereTheSpecRefuses : Prop :=
  ∀ s : State, s.Inv → layoutFits s.cfg.layout = true →
    (∀ f : Fault, step s ≠ .fault f) ∧
    (step s = .refused .equalMessageIds ↔ idsDistinct s.cfg = false) ∧
    (step s = .refused .reentrantCall ↔
      idsDistinct s.cfg = true ∧ s.hostSerialized = false ∧ s.callActive = true) ∧
    (step s = .refused .reservedEventKind ↔
      idsDistinct s.cfg = true ∧ s.hostSerialized = true ∧ s.callActive = true ∧
        s.nRead ≠ s.cfg.maxBytesPerCall ∧ s.answerIsEvent = false) ∧
    (∀ r : Refusal, step s = .refused r → r = .equalMessageIds ∨ r = .reentrantCall ∨ r = .reservedEventKind)

/-- R39: no step changes the configuration record, and no operation does. -/
def Obligations.ConfigurationNeverChanges : Prop :=
  (∀ s t : State, step s = .next t → t.cfg = s.cfg) ∧
    (∀ (i : Instr) (s t : State), exec i s = .next t → t.cfg = s.cfg)

/-- R52, R53: in every step the buffer stays as it is, or grows by one byte at its end, every byte before it reading
as before, or is emptied; and it is emptied together with the CRC bytes, the header bank and the phase. -/
def Obligations.BufferOnlyGrowsOrIsCleared : Prop :=
  ∀ s t : State, s.Inv → step s = .next t →
    t.buf = s.buf ∨
    (t.buf.length = s.buf.length + 1 ∧ (∃ v, Memory.read t.buf s.buf.length = some v) ∧
      ∀ a, a ≠ s.buf.length → Memory.read t.buf a = Memory.read s.buf a) ∨
    t.noFrame

/-- R27: a step changes the status register only by ending the candidate frame, and then to one of the codes 0x1 to
0xA: 0x0 is written by reset only and 0xB to 0xF never. -/
def Obligations.StatusIsWrittenOnlyByFrameEvents : Prop :=
  ∀ s t : State, step s = .next t → t.status ≠ s.status →
    t.noFrame ∧ 1 ≤ t.status.toNat ∧ t.status.toNat ≤ 10

/-- R27, 92 D21: no rule reads the status register. Two states that differ in it alone step alike. -/
def Obligations.StatusIsNeverRead : Prop :=
  ∀ (s : State) (x : BitVec 4),
    (nextState (step { s with status := x })).map State.forgetStatus = (nextState (step s)).map State.forgetStatus ∧
      faultOf (step { s with status := x }) = faultOf (step s) ∧
      refusalOf (step { s with status := x }) = refusalOf (step s)

/-- R266, R342: a step that has an answer in the queue looks at no later answer; those stay with the transport. -/
def Obligations.LaterAnswersAreNotRead : Prop :=
  ∀ (s t : State) (later : List EventWord), s.transport ≠ [] → step s = .next t →
    step { s with transport := s.transport ++ later } = .next { t with transport := t.transport ++ later }

/-- R266: in a step, either no result is delivered and an active call stays active, or exactly one is, and it ends the
call that was active. -/
def Obligations.OneResultEndsTheCall : Prop :=
  ∀ s t : State, step s = .next t →
    (t.results = s.results ∧ (s.callActive = true → t.callActive = true)) ∨
      (∃ r, t.results = s.results ++ [r] ∧ s.callActive = true ∧ t.callActive = false)

/-- R271: a call ends, with one result, within as many steps as it has reads left and one more, whatever the transport
answers. -/
def Obligations.EveryCallEndsWithinItsCeiling : Prop :=
  ∀ s : State, s.Inv → layoutFits s.cfg.layout = true → idsDistinct s.cfg = true → s.callActive = true →
    s.hostSerialized = true → s.answersAreEvents = true →
    ∃ (k : Nat) (t : State), k ≤ s.cfg.maxBytesPerCall - s.nRead + 1 ∧
      Host.Core.run Sys2Proof.core k s = .next t ∧ t.callActive = false ∧
      t.nRead ≤ s.cfg.maxBytesPerCall ∧ ∃ r, t.results = s.results ++ [r]

/-- R275, 95 S1: the bytes of a frame with the configuration's sync bytes, header length 28, a message length that is
the payload's and the right CRC, arriving in `Sync{0}`, end in the DISPATCH that the message id selects, with crc_ok,
on exactly that frame. -/
def Obligations.ValidFrameReachesItsDecoder : Prop :=
  ∀ (s : State) (rest pay : List Byte) (i0 i1 l0 l1 : Byte), s.noFrame → rest.length = 24 →
    rest[0]? = some i0 → rest[1]? = some i1 → rest[4]? = some l0 → rest[5]? = some l1 →
    (le16 l0 l1).toNat = pay.length → 1 ≤ pay.length → pay.length ≤ s.cfg.payloadCap →
    feedBytes (coveredBytes s.cfg rest pay ++ wireBytes (coveredBytes s.cfg rest pay)) s =
      exec (decodeMessageId s.cfg (le16 i0 i1) true)
        { s with
          phase := .crc 3
          buf := memoryOf (coveredBytes s.cfg rest pay)
          hdr := headerOf (memoryOf (coveredBytes s.cfg rest pay))
          crcb := wireBytes (coveredBytes s.cfg rest pay) }

/-! ## Encodings -/

/-- R100, R101: each event word spells one event, no bit of it is dropped, and it is refused in 16 bits when a bit above
bit 9 is set (log 16). -/
def Obligations.EventWordsRoundTrip : Prop :=
  (∀ w : EventWord, encodeEvent (decodeEvent w) = some w ∧ (decodeEvent w).wellFormed = true ∧
      decodeBytes [w.extractLsb' 0 8, (w.extractLsb' 8 2).setWidth 8] = .ok (decodeEvent w)) ∧
    (∀ b0 b1 : Byte, b1.extractLsb' 2 6 ≠ 0#6 → decodeBytes [b0, b1] = .error .bitsAboveEventWord)

/-- R104, R264: in every phase, an event word's decoding with the phase gives back every operation of format EVENT10
that the phase selects, and the operation encodes to the word. -/
def Obligations.SelectedOperationsDecodeFromTheirWords : Prop :=
  ∀ (c : Config) (ph : Phase) (i : Instr), selects c ph i = true →
    i.wellFormed = true ∧ ∃ w, encodeEvent i = some w ∧ decodeOperation c ph w = i ∧ encode c i = some (w.setWidth 16)

/-- R104: "Exactly one row applies to every (state, event) pair": a byte selects one operation, and no other. -/
def Obligations.ExactlyOneByteOperationIsSelected : Prop :=
  ∀ (c : Config) (ph : Phase) (v : Byte), selects c ph (decodeByteOp c ph v) = true ∧
    encodeEvent (decodeByteOp c ph v) = some (0#2 ++ v) ∧
    ∀ i : Instr, selects c ph i = true → encodeEvent i = some (0#2 ++ v) → i = decodeByteOp c ph v

/-- R102: with five different ids, each id selects its own decoder, whatever crc_ok, and every other id the row of
unknown ids. -/
def Obligations.MessageIdsSelectTheirDecoders : Prop :=
  ∀ (c : Config) (ok : Bool), idsDistinct c = true →
    (∀ (i : Instr) (id : Word16), encodeMessageId c i = some id →
      i = decodeMessageId c id true ∨ i = decodeMessageId c id false) ∧
    (∀ id : Word16, encodeMessageId c (decodeMessageId c id ok) = some id ∨
      decodeMessageId c id ok = .dispatchUnknown ok ∧ isUnknownId c id = true)

/-- A few words written out from R100 and R102: a byte, a timeout, a failure, the reserved kind, an id. -/
def Obligations.WrittenOutWordsDecode : Prop :=
  decodeEvent 0b0010101010#10 = .evByte 0xAA#8 ∧ decodeEvent 0b0100000000#10 = .evTimeout 0#8 ∧
    decodeEvent 0b1000000000#10 = .evFail 0#8 ∧ decodeEvent 0b1100000001#10 = .evReserved 1#8 ∧
    decodeOperation defaultConfig (.sync 0) 0b0010101010#10 = .syncMatch 0xAA#8 ∧
    decodeMessageId defaultConfig 0x010E#16 true = .dispatchSatxyz true

/-! ## Steps, calls and events -/

/-- What a step runs. When the host's call starts, serialized or immediate, DECODE_NEXT (R262; the queue of calls is
log 7). In a call below its ceiling, the next answer's event on the counted request; it is what READ does; with no call
active and none to make, nothing (R263, R314). -/
def Obligations.StepRunsTheDecodedEvent : Prop :=
  ∀ s : State, idsDistinct s.cfg = true →
    (∀ (call : HostCall) (rest : List HostCall), s.callActive = false → s.host = call :: rest →
      step s = exec .decodeNext { s with host := rest } ∧
        step s = .next { s with host := rest, callActive := true, nRead := 0 }) ∧
    (s.hostSerialized = true →
      (∀ w rest, s.callActive = true → s.nRead ≠ s.cfg.maxBytesPerCall → s.transport = w :: rest →
        (decodeEvent w).wellFormed = true ∧
          step s = exec (decodeEvent w) { s with transport := rest, nRead := s.nRead + 1 } ∧
          step s = exec .read s) ∧
      (s.callActive = true → step s = exec .read s) ∧
      (s.callActive = false → s.host = [] → step s = .next s))

/-- An event word placed for the next step is run by it, on the state in which the request has been counted. -/
def Obligations.PlacedWordIsRunNext : Prop :=
  ∀ (s : State) (nbits : Nat) (w : EventWord), idsDistinct s.cfg = true →
    ∃ t : State, step (s.withFetchWord nbits w.toNat) = exec (decodeEvent w) t ∧
      decodeTableWord 16 w.toNat = some (decodeEvent w) ∧
      t.phase = s.phase ∧ t.buf = s.buf ∧ t.hdr = s.hdr ∧ t.crcb = s.crcb ∧ t.status = s.status ∧
      t.callActive = true ∧ t.transport = s.transport ∧ t.results = s.results

/-- DECODE_NEXT starts a call with no read counted, nothing of the framing state changed, and every step of the call is a
READ. That DECODE_NEXT is a step of its own that runs no READ, where R262's pseudocode goes on to READ, and that each
READ is a later step, is the model's choice (log 17, deduced from R276). -/
def Obligations.DecodeNextStartsACallOfReads : Prop :=
  (∀ s : State, s.callActive = false → exec .decodeNext s = .next { s with callActive := true, nRead := 0 }) ∧
    (∀ s : State, idsDistinct s.cfg = true → s.hostSerialized = true → s.callActive = true → step s = exec .read s)

/-- R272: a call made while a call is active is refused, and so is the step in which the host makes one. -/
def Obligations.ReentrantCallIsRefused : Prop :=
  ∀ s : State, s.callActive = true → exec .decodeNext s = .refused .reentrantCall ∧
    (idsDistinct s.cfg = true → s.hostSerialized = false → step s = .refused .reentrantCall)

/-- R102: with two equal message ids no step is taken. -/
def Obligations.EqualMessageIdsAreRefused : Prop :=
  ∀ s : State, idsDistinct s.cfg = false → step s = .refused .equalMessageIds

/-- R263: READ at the ceiling ends the call with NoFrameYet; below it, it takes one answer, counts the request and does
what the answer's event says. Every kind of answer is a clause. -/
def Obligations.ReadTakesAndCountsOneAnswer : Prop :=
  ∀ s : State, s.callActive = true →
    (s.nRead = s.cfg.maxBytesPerCall →
      exec .read s = .next { s with callActive := false, results := s.results ++ [.noFrameYet] }) ∧
    (∀ (w : EventWord) (rest : List EventWord), s.nRead ≠ s.cfg.maxBytesPerCall → s.transport = w :: rest →
      (w.extractLsb' 8 2 = 0#2 → exec .read s =
        exec (.evByte (w.extractLsb' 0 8)) { s with transport := rest, nRead := s.nRead + 1 }) ∧
      (w.extractLsb' 8 2 = 1#2 → exec .read s = .next { s with transport := rest, nRead := s.nRead + 1 }) ∧
      (w.extractLsb' 8 2 = 2#2 → exec .read s = .next
        { s with transport := rest, nRead := s.nRead + 1, callActive := false,
                 results := s.results ++ [.error .transportError] }) ∧
      (w.extractLsb' 8 2 = 3#2 → exec .read s = .refused .reservedEventKind))

/-- R261, log 4: with no answer in the queue READ takes a free one, an event and never the reserved kind, and the next
free value is another. -/
def Obligations.ReadBeyondTheQueueTakesAFreeAnswer : Prop :=
  ∀ s : State, s.callActive = true → s.nRead ≠ s.cfg.maxBytesPerCall → s.transport = [] →
    exec .read s = match Config.freeAnswer s.draw with
      | .byte v => exec (.evByte v) { s with draw := s.draw + 1, nRead := s.nRead + 1 }
      | .timeout => .next { s with draw := s.draw + 1, nRead := s.nRead + 1 }
      | .fail => .next { s with draw := s.draw + 1, nRead := s.nRead + 1, callActive := false,
                                results := s.results ++ [.error .transportError] }

/-- R267: EV_TIMEOUT changes nothing. -/
def Obligations.TimeoutChangesNothing : Prop :=
  ∀ (s : State) (x : Byte), exec (.evTimeout x) s = .next s

/-- EV_FAIL ends the call with TransportError and keeps phase, buffer, header, CRC bytes and status (R268). That it
delivers the result with no call active too is the model's choice (log 26). -/
def Obligations.FailEndsTheCallAndKeepsTheFrame : Prop :=
  ∀ (s : State) (x : Byte), exec (.evFail x) s =
    .next { s with callActive := false, results := s.results ++ [.error .transportError] }

/-- R101: an event word with bits 9:8 = 11 spells no event, and a model refuses it. -/
def Obligations.ReservedEventKindIsRefused : Prop :=
  (∀ w : EventWord, w.extractLsb' 8 2 = 3#2 → decodeEvent w = .evReserved (w.extractLsb' 0 8)) ∧
    ∀ (s : State) (x : Byte), exec (.evReserved x) s = .refused .reservedEventKind

/-- R264: EV_BYTE performs the one operation that the framing state selects. -/
def Obligations.EvByteRunsTheSelectedOperation : Prop :=
  ∀ (s : State) (v : Byte), exec (.evByte v) s = exec (decodeByteOp s.cfg s.phase v) s

/-- R276, "Every function is total on legal states": every byte is taken in every legal state, and so is every READ
whose answer is an event. -/
def Obligations.EveryByteIsTaken : Prop :=
  ∀ s : State, s.Inv → layoutFits s.cfg.layout = true →
    (∀ v : Byte, ∃ t, exec (.evByte v) s = .next t) ∧
    (s.callActive = true → s.answerIsEvent = true → ∃ t, exec .read s = .next t)

/-- R104, log 10: a byte operation in a phase that does not select it is refused. -/
def Obligations.UnselectedOperationsAreRefused : Prop :=
  ∀ (s : State) (i : Instr) (w : EventWord), encodeEvent i = some w → eventKind w = 0#2 → (∀ v, i ≠ .evByte v) →
    selects s.cfg s.phase i = false → exec i s = .refused .notSelected

/-- Log 10: READ outside a call, FRAME_END without four CRC bytes, and a DISPATCH whose id is another or whose frame the
policy keeps from it (R180, R200) are refused. An unwritten header register is no reason to stop: CRC_LAST, FRAME_END and
the DISPATCH rows do with such registers what they do with some value in each of them, but for the draw counter; which
value is free (log 11, the model's choice: R25 gives none). -/
def Obligations.UnselectedFrameOperationsAreRefused : Prop :=
  (∀ s : State, s.callActive = false → exec .read s = .refused .notSelected) ∧
  (∀ s : State, s.crcb.length ≠ 4 → exec .frameEnd s = .refused .notSelected) ∧
  (∀ (s : State) (ok : Bool),
    let barred : Prop := ok = false ∧ s.cfg.crcPolicy = .strict
    let another (id : Word16) : Prop := ∃ x, s.hdr.messageId = some x ∧ x ≠ id
    (another s.cfg.msgidBestpos ∨ barred → exec (.dispatchBestpos ok) s = .refused .notSelected) ∧
    (another s.cfg.msgidBestxyz ∨ barred → exec (.dispatchBestxyz ok) s = .refused .notSelected) ∧
    (another s.cfg.msgidSatxyz ∨ barred → exec (.dispatchSatxyz ok) s = .refused .notSelected) ∧
    (another s.cfg.msgidTrackstat ∨ barred → exec (.dispatchTrackstat ok) s = .refused .notSelected) ∧
    (another s.cfg.msgidRange ∨ barred → exec (.dispatchRange ok) s = .refused .notSelected) ∧
    ((∃ x, s.hdr.messageId = some x ∧ (x = s.cfg.msgidBestpos ∨ x = s.cfg.msgidBestxyz ∨ x = s.cfg.msgidSatxyz ∨
        x = s.cfg.msgidTrackstat ∨ x = s.cfg.msgidRange)) ∨ barred →
      exec (.dispatchUnknown ok) s = .refused .notSelected)) ∧
  ∀ (s : State) (i : Instr), endsFrame i = true →
    ∃ r : HeaderRecord, s.hdr.agrees r ∧ sameButDraw (exec i s) (exec i { s with hdr := r.bank })

/-! ## Synchronizer and header -/

/-- R141, R142, R143: a matching byte is stored and the position advances, the third match enters the header, and a
mismatch at any position drops the candidate frame and the byte, with status 0x3. -/
def Obligations.SynchronizerMatchesOrDrops : Prop :=
  (∀ (s : State) (p : Fin 3) (v : Byte) (h : p.val < 2), s.phase = .sync p → s.buf.length = p.val →
      v = (if p.val = 0 then s.cfg.sync0 else s.cfg.sync1) →
      exec (.syncMatch v) s =
        .next { s with buf := s.buf ++ [(p.val, v)], phase := .sync ⟨p.val + 1, by omega⟩ }) ∧
    (∀ (s : State) (v : Byte), s.phase = .sync 2 → s.buf.length = 2 → v = s.cfg.sync2 →
      exec (.syncComplete v) s =
        .next { s with buf := s.buf ++ [(2, v)], phase := .header ⟨3, by omega⟩ }) ∧
    (∀ (s : State) (p : Fin 3) (v : Byte), s.phase = .sync p →
      v ≠ (if p.val = 0 then s.cfg.sync0 else if p.val = 1 then s.cfg.sync1 else s.cfg.sync2) →
      exec (.syncMismatch v) s =
        .next { s with phase := .sync 0, buf := [], hdr := Header.unwritten, crcb := [], status := 0x3#4 })

/-- R144, R145: the byte at offset 3 is stored when it is 28, and any other drops the whole frame, with status 0x4. -/
def Obligations.HeaderLengthIsChecked : Prop :=
  ∀ (s : State) (v : Byte), s.phase = .header ⟨3, by omega⟩ →
    (s.buf.length = 3 → v = 28#8 → exec (.hdrlenOk v) s =
      .next { s with buf := s.buf ++ [(3, v)], hdr := { s.hdr with headerLength := some v },
                     phase := .header ⟨4, by omega⟩ }) ∧
    (v ≠ 28#8 → exec (.hdrlenBad v) s =
      .next { s with phase := .sync 0, buf := [], hdr := Header.unwritten, crcb := [], status := 0x4#4 })

/-- R147, and R146 and R148 but for the byte at offset 9: a header byte other than that one is stored, the register it
completes is written and no other, and the position advances; nothing else changes. -/
def Obligations.HeaderByteWritesItsRegister : Prop :=
  ∀ (s : State) (p : HeaderPos) (v : Byte) (h : 4 ≤ p.val ∧ p.val ≤ 26), s.phase = .header p → p.val ≠ 9 →
    Memory.wf s.buf = true → s.buf.length = p.val →
    ∃ new, registerWritten p.val v s.buf s.hdr new ∧
      exec (.hdrByte v) s =
        .next { s with buf := s.buf ++ [(p.val, v)], hdr := new, phase := .header ⟨p.val + 1, by omega⟩ }

/-- R149, R150, R152: at offset 9 a length of 0 drops the frame with status 0x5, a length above PAYLOAD_CAP with 0x6,
and any other is stored and the position advances. -/
def Obligations.MessageLengthIsChecked : Prop :=
  ∀ (s : State) (b v : Byte), s.phase = .header ⟨9, by omega⟩ → Memory.wf s.buf = true → s.buf.length = 9 →
    Memory.read s.buf 8 = some b →
    (le16 b v = 0#16 → exec (.hdrByte v) s =
      .next { s with phase := .sync 0, buf := [], hdr := Header.unwritten, crcb := [], status := 0x5#4 }) ∧
    (le16 b v ≠ 0#16 → s.cfg.payloadCap < (le16 b v).toNat → exec (.hdrByte v) s =
      .next { s with phase := .sync 0, buf := [], hdr := Header.unwritten, crcb := [], status := 0x6#4 }) ∧
    (le16 b v ≠ 0#16 → (le16 b v).toNat ≤ s.cfg.payloadCap → exec (.hdrByte v) s =
      .next { s with buf := s.buf ++ [(9, v)], hdr := { s.hdr with messageLength := some (le16 b v) },
                     phase := .header ⟨10, by omega⟩ })

/-- R153: the last header byte is stored, the software version written, and the phase is `Payload{message_length}`. -/
def Obligations.LastHeaderByteStartsThePayload : Prop :=
  ∀ (s : State) (b v : Byte) (len : Word16) (h : 1 ≤ len.toNat), s.phase = .header ⟨27, by omega⟩ →
    Memory.wf s.buf = true → s.buf.length = 27 → Memory.read s.buf 26 = some b → s.hdr.messageLength = some len →
    exec (.hdrLast v) s =
      .next { s with buf := s.buf ++ [(27, v)], hdr := { s.hdr with receiverSwVersion := some (le16 b v) },
                     phase := .payload ⟨len.toNat, h, by omega⟩ }

/-! ## Payload and CRC bytes -/

/-- R171, R172: a payload byte, whatever its value, is stored at `28 + L - r`, and the count goes down; the last one
starts the CRC. -/
def Obligations.PayloadBytesAreStored : Prop :=
  ∀ (s : State) (r : Remaining) (v : Byte) (len : Word16), s.phase = .payload r → s.hdr.messageLength = some len →
    r.val ≤ len.toNat → len.toNat ≤ s.cfg.payloadCap → s.buf.length = 28 + len.toNat - r.val →
    (∀ h : 2 ≤ r.val, exec (.payloadByte v) s =
      .next { s with buf := s.buf ++ [(28 + len.toNat - r.val, v)],
                     phase := .payload ⟨r.val - 1, by omega, by omega⟩ }) ∧
    (r.val = 1 → exec (.payloadLast v) s =
      .next { s with buf := s.buf ++ [(28 + len.toNat - 1, v)], phase := .crc 0 })

/-- R174: a CRC byte is kept in S.crcb, not in the buffer. -/
def Obligations.CrcBytesAreKeptApart : Prop :=
  ∀ (s : State) (p : Fin 4) (v : Byte) (h : p.val < 3), s.phase = .crc p →
    exec (.crcByte v) s = .next { s with crcb := s.crcb ++ [v], phase := .crc ⟨p.val + 1, by omega⟩ }

/-- R175, R183: the fourth CRC byte is appended and FRAME_END runs in the same step; the step completes in `Sync{0}` with
no frame held. -/
def Obligations.FourthCrcByteEndsTheFrame : Prop :=
  ∀ (s : State) (v : Byte) (h : HeaderRecord), s.phase = .crc 3 →
    exec (.crcLast v) s = exec .frameEnd { s with crcb := s.crcb ++ [v] } ∧
    (s.holdsFrame h → s.crcb.length = 3 → layoutFits s.cfg.layout = true →
      ∃ t, exec (.crcLast v) s = .next t ∧ t.noFrame)

/-- R176, R177, R178, R180, R181: crc_ok is the wire CRC against the byte-reversed CRC of the buffer's bytes; under
Strict a mismatch drops the frame with status 0x7 and delivers nothing; otherwise the message id's DISPATCH runs. -/
def Obligations.FrameEndComparesAndDispatches : Prop :=
  ∀ (s : State) (b0 b1 b2 b3 : Byte), s.crcb = [b0, b1, b2, b3] →
    (le32 b0 b1 b2 b3 ≠ bswap32 (crc32 (Memory.bytes s.buf)) → s.cfg.crcPolicy = .strict →
      exec .frameEnd s =
        .next { s with phase := .sync 0, buf := [], hdr := Header.unwritten, crcb := [], status := 0x7#4 }) ∧
    (∀ id : Word16, s.hdr.messageId = some id →
      (le32 b0 b1 b2 b3 = bswap32 (crc32 (Memory.bytes s.buf)) →
        exec .frameEnd s = exec (decodeMessageId s.cfg id true) s) ∧
      (le32 b0 b1 b2 b3 ≠ bswap32 (crc32 (Memory.bytes s.buf)) → s.cfg.crcPolicy = .lenient →
        exec .frameEnd s = exec (decodeMessageId s.cfg id false) s))

/-- R183: whatever the outcome of FRAME_END on a whole frame, it completes with the phase `Sync{0}`, nothing held, and a
status code of R27 for the outcome. -/
def Obligations.FrameEndAlwaysReturnsToSync : Prop :=
  ∀ (s : State) (h : HeaderRecord), s.holdsFrame h → s.crcb.length = 4 → layoutFits s.cfg.layout = true →
    ∃ t, exec .frameEnd s = .next t ∧ t.noFrame ∧
      (t.status = 0x1#4 ∨ t.status = 0x2#4 ∨ t.status = 0x7#4 ∨ t.status = 0x8#4 ∨ t.status = 0x9#4 ∨ t.status = 0xA#4)

/-- R179: a frame passes exactly when the computed CRC stands on the wire most-significant byte first. -/
def Obligations.WireCrcIsMostSignificantByteFirst : Prop :=
  ∀ (b0 b1 b2 b3 : Byte) (covered : List Byte), crcOkOf (le32 b0 b1 b2 b3) covered = true ↔
    b0 = (crc32 covered).extractLsb' 24 8 ∧ b1 = (crc32 covered).extractLsb' 16 8 ∧
      b2 = (crc32 covered).extractLsb' 8 8 ∧ b3 = (crc32 covered).extractLsb' 0 8

/-! ## Dispatch and the five decoders -/

/-- R201: an id that is none of the five drops the frame with status 0x8, in both policies; no result is delivered and
the call goes on. -/
def Obligations.UnknownMessageIsDropped : Prop :=
  ∀ (s : State) (id : Word16) (ok : Bool), s.hdr.messageId = some id → id ≠ s.cfg.msgidBestpos →
    id ≠ s.cfg.msgidBestxyz → id ≠ s.cfg.msgidSatxyz → id ≠ s.cfg.msgidTrackstat → id ≠ s.cfg.msgidRange →
    (ok = true ∨ s.cfg.crcPolicy = .lenient) →
    exec (.dispatchUnknown ok) s =
      .next { s with phase := .sync 0, buf := [], hdr := Header.unwritten, crcb := [], status := 0x8#4 }

/-- Each decoder raises PAYLOAD_TOO_SHORT below the message's minimum length (R204): the frame is dropped, status 0xA, and
the call ends with the error. Under the default layout, which is presumed (log 3), the minima are R94's. That a layout's
"(not read)" rows count for the minimum, where R94 and R204 speak of the fixed fields, is the model's choice (log 14). -/
def Obligations.ShortPayloadIsRaised : Prop :=
  (bestPosMinLen defaultLayout.bestPos = 66 ∧ bestXyzMinLen defaultLayout.bestXyz = 106 ∧
    satXyzMinLen defaultLayout.satXyz = 12 ∧ trackStatMinLen defaultLayout.trackStat = 16 ∧
    rangeMinLen defaultLayout.range = 4) ∧
  ∀ (s : State) (h : HeaderRecord) (ok : Bool), s.holdsFrame h → (ok = true ∨ s.cfg.crcPolicy = .lenient) →
    let failed : Result := .next
      { s with phase := .sync 0, buf := [], hdr := Header.unwritten, crcb := [], status := 0xA#4, callActive := false,
               results := s.results ++ [.error .payloadTooShort] }
    (h.messageId = s.cfg.msgidBestpos → h.messageLength.toNat < bestPosMinLen s.cfg.layout.bestPos →
      exec (.dispatchBestpos ok) s = failed) ∧
    (h.messageId = s.cfg.msgidBestxyz → h.messageLength.toNat < bestXyzMinLen s.cfg.layout.bestXyz →
      exec (.dispatchBestxyz ok) s = failed) ∧
    (h.messageId = s.cfg.msgidSatxyz → h.messageLength.toNat < satXyzMinLen s.cfg.layout.satXyz →
      exec (.dispatchSatxyz ok) s = failed) ∧
    (h.messageId = s.cfg.msgidTrackstat → h.messageLength.toNat < trackStatMinLen s.cfg.layout.trackStat →
      exec (.dispatchTrackstat ok) s = failed) ∧
    (h.messageId = s.cfg.msgidRange → h.messageLength.toNat < rangeMinLen s.cfg.layout.range →
      exec (.dispatchRange ok) s = failed)

/-- R224, R234, R244: a count whose entries do not fit the payload, on unbounded integers, or a negative one, is
COUNT_FIELD_OUT_OF_BOUNDS: the frame is dropped, status 0x9, and the call ends with the error. -/
def Obligations.CountOutOfBoundsIsRaised : Prop :=
  ∀ (s : State) (h : HeaderRecord) (ok : Bool), s.holdsFrame h → (ok = true ∨ s.cfg.crcPolicy = .lenient) →
    let failed : Result := .next
      { s with phase := .sync 0, buf := [], hdr := Header.unwritten, crcb := [], status := 0x9#4, callActive := false,
               results := s.results ++ [.error .countFieldOutOfBounds] }
    (∀ n : Word32, h.messageId = s.cfg.msgidSatxyz → satXyzMinLen s.cfg.layout.satXyz ≤ h.messageLength.toNat →
      payU32 (s.payload h) s.cfg.layout.satXyz.numSatellites = some n →
      h.messageLength.toNat < s.cfg.layout.satXyz.base + n.toNat * 68 → exec (.dispatchSatxyz ok) s = failed) ∧
    (∀ n : Int, h.messageId = s.cfg.msgidTrackstat →
      trackStatMinLen s.cfg.layout.trackStat ≤ h.messageLength.toNat →
      payI32 (s.payload h) s.cfg.layout.trackStat.numChannels = some n →
      (n < 0 ∨ (h.messageLength.toNat : Int) < s.cfg.layout.trackStat.base + n * 40) →
      exec (.dispatchTrackstat ok) s = failed) ∧
    (∀ n : Word16, h.messageId = s.cfg.msgidRange → rangeMinLen s.cfg.layout.range ≤ h.messageLength.toNat →
      payU16 (s.payload h) s.cfg.layout.range.numObservations = some n →
      h.messageLength.toNat < s.cfg.layout.range.base + n.toNat * 44 → exec (.dispatchRange ok) s = failed)

/-- R203, R210, R211, R252: a BestPos frame of at least the minimum length is decoded: every field is the value read at
its layout offset with its type, the covariances are the squares, and the call ends with the frame. The draw counter,
its advance by three and the draw index of each square are the model's choices (log 5), as is the free NaN that a square
of a NaN takes by that index (log 6); the minimum length is log 14's. The frame delivered carries every header register
and the receiver status with its flags (R154, R208). -/
def Obligations.BestPosIsDecoded : Prop :=
  ∀ (s : State) (h : HeaderRecord) (ok : Bool), s.holdsFrame h → (ok = true ∨ s.cfg.crcPolicy = .lenient) →
    h.messageId = s.cfg.msgidBestpos → bestPosMinLen s.cfg.layout.bestPos ≤ h.messageLength.toNat →
    ∃ (r : BestPos) (f : DecodedFrame), s.delivers f ∧ f.header = h ∧ f.record = .bestPos r ∧ f.crcOk = ok ∧
      (let p := s.payload h
       let l := s.cfg.layout.bestPos
       payUnsigned p l.solutionStatus = some r.solutionStatus ∧ payUnsigned p l.positionType = some r.positionType ∧
       payF64 p l.latitude = some r.latitude ∧ payF64 p l.longitude = some r.longitude ∧
       payF64 p l.altitude = some r.altitude ∧ payF32 p l.stdevLatitude = some r.stdevLatitude ∧
       payF32 p l.stdevLongitude = some r.stdevLongitude ∧ payF32 p l.stdevAltitude = some r.stdevAltitude ∧
       payUnsigned p l.numSatsTracked = some r.numSatsTracked ∧ payUnsigned p l.numSatsUsed = some r.numSatsUsed) ∧
      r.covarLatitude = square64 s.draw r.stdevLatitude ∧ r.covarLongitude = square64 (s.draw + 1) r.stdevLongitude ∧
      r.covarAltitude = square64 (s.draw + 2) r.stdevAltitude ∧
      exec (.dispatchBestpos ok) s = .next
        { s with phase := .sync 0, buf := [], hdr := Header.unwritten, crcb := [],
                 status := if ok then 0x1#4 else 0x2#4, callActive := false, draw := s.draw + 3,
                 results := s.results ++ [.decoded f] }

/-- R203, R215, R252: a BestXyz frame of at least the minimum length is decoded, every field as read. The frame
delivered carries every header register and the receiver status with its flags (R154, R208). -/
def Obligations.BestXyzIsDecoded : Prop :=
  ∀ (s : State) (h : HeaderRecord) (ok : Bool), s.holdsFrame h → (ok = true ∨ s.cfg.crcPolicy = .lenient) →
    h.messageId = s.cfg.msgidBestxyz → bestXyzMinLen s.cfg.layout.bestXyz ≤ h.messageLength.toNat →
    ∃ (r : BestXyz) (f : DecodedFrame), s.delivers f ∧ f.header = h ∧ f.record = .bestXyz r ∧ f.crcOk = ok ∧
      (let p := s.payload h
       let l := s.cfg.layout.bestXyz
       payUnsigned p l.positionStatus = some r.positionStatus ∧ payUnsigned p l.positionType = some r.positionType ∧
       payF64 p l.positionX = some r.positionX ∧ payF64 p l.positionY = some r.positionY ∧
       payF64 p l.positionZ = some r.positionZ ∧ payF32 p l.positionSigmaX = some r.positionSigmaX ∧
       payF32 p l.positionSigmaY = some r.positionSigmaY ∧ payF32 p l.positionSigmaZ = some r.positionSigmaZ ∧
       payUnsigned p l.velocityStatus = some r.velocityStatus ∧ payUnsigned p l.velocityType = some r.velocityType ∧
       payF64 p l.velocityX = some r.velocityX ∧ payF64 p l.velocityY = some r.velocityY ∧
       payF64 p l.velocityZ = some r.velocityZ ∧ payF32 p l.velocitySigmaX = some r.velocitySigmaX ∧
       payF32 p l.velocitySigmaY = some r.velocitySigmaY ∧ payF32 p l.velocitySigmaZ = some r.velocitySigmaZ ∧
       payUnsigned p l.numSatsTracked = some r.numSatsTracked ∧ payUnsigned p l.numSatsUsed = some r.numSatsUsed) ∧
      exec (.dispatchBestxyz ok) s = .next
        { s with phase := .sync 0, buf := [], hdr := Header.unwritten, crcb := [],
                 status := if ok then 0x1#4 else 0x2#4, callActive := false,
                 results := s.results ++ [.decoded f] }

/-- R220-R223, R250, R252: a SatXyz frame whose entries fit is decoded: `n` entries in order, entry i read at
`base + i * 68`; the frame delivered carries every header register and the receiver status with its flags (R154, R208). -/
def Obligations.SatXyzIsDecoded : Prop :=
  ∀ (s : State) (h : HeaderRecord) (ok : Bool) (n : Word32), s.holdsFrame h →
    (ok = true ∨ s.cfg.crcPolicy = .lenient) → layoutFits s.cfg.layout = true → h.messageId = s.cfg.msgidSatxyz →
    satXyzMinLen s.cfg.layout.satXyz ≤ h.messageLength.toNat →
    payU32 (s.payload h) s.cfg.layout.satXyz.numSatellites = some n →
    s.cfg.layout.satXyz.base + n.toNat * 68 ≤ h.messageLength.toNat →
    ∃ (es : List SatEntry) (f : DecodedFrame), s.delivers f ∧ f.header = h ∧ f.record = .satXyz ⟨n, es⟩ ∧ f.crcOk = ok ∧
      es.length = n.toNat ∧
      (∀ (i : Nat) (e : SatEntry), es[i]? = some e →
        let p := s.payload h
        let l := s.cfg.layout.satXyz
        let o := l.base + i * 68
        payU32 p (o + l.prn) = some e.prn ∧ payF64 p (o + l.x) = some e.x ∧ payF64 p (o + l.y) = some e.y ∧
        payF64 p (o + l.z) = some e.z ∧ payF64 p (o + l.clockCorrection) = some e.clockCorrection ∧
        payF64 p (o + l.ionosphericCorrection) = some e.ionosphericCorrection ∧
        payF64 p (o + l.troposphericCorrection) = some e.troposphericCorrection) ∧
      exec (.dispatchSatxyz ok) s = .next
        { s with phase := .sync 0, buf := [], hdr := Header.unwritten, crcb := [],
                 status := if ok then 0x1#4 else 0x2#4, callActive := false,
                 results := s.results ++ [.decoded f] }

/-- R230-R233, R209, R250, R252: a TrackStat frame whose entries fit is decoded: the fixed part, and `n` channels in
order, channel i read at `base + i * 40`, its status word unpacked by the table; the frame delivered carries every header
register and the receiver status with its flags (R154, R208). -/
def Obligations.TrackStatIsDecoded : Prop :=
  ∀ (s : State) (h : HeaderRecord) (ok : Bool) (n : Int), s.holdsFrame h →
    (ok = true ∨ s.cfg.crcPolicy = .lenient) → layoutFits s.cfg.layout = true → h.messageId = s.cfg.msgidTrackstat →
    trackStatMinLen s.cfg.layout.trackStat ≤ h.messageLength.toNat →
    payI32 (s.payload h) s.cfg.layout.trackStat.numChannels = some n → 0 ≤ n →
    s.cfg.layout.trackStat.base + n * 40 ≤ (h.messageLength.toNat : Int) →
    ∃ (r : TrackStat) (f : DecodedFrame), s.delivers f ∧ f.header = h ∧ f.record = .trackStat r ∧ f.crcOk = ok ∧
      r.numChannels = n ∧ (r.channels.length : Int) = n ∧
      (let p := s.payload h
       let l := s.cfg.layout.trackStat
       payUnsigned p l.solutionStatus = some r.solutionStatus ∧ payUnsigned p l.positionType = some r.positionType ∧
       payF32 p l.elevationCutoff = some r.elevationCutoff ∧
       ∀ (i : Nat) (e : TrackEntry), r.channels[i]? = some e →
        let o := l.base + i * 40
        payI16 p (o + l.prn) = some e.prn ∧ payU32 p (o + l.trackingStatus) = some e.trackingStatus.raw ∧
        e.trackingStatus.fields = unpack e.trackingStatus.raw s.cfg.trackStatusTable ∧
        payF64 p (o + l.pseudorange) = some e.pseudorange ∧ payF32 p (o + l.doppler) = some e.doppler ∧
        payF32 p (o + l.cn0) = some e.cn0 ∧ payF32 p (o + l.locktime) = some e.locktime ∧
        payF32 p (o + l.psrResidual) = some e.psrResidual ∧ payF32 p (o + l.psrWeight) = some e.psrWeight) ∧
      exec (.dispatchTrackstat ok) s = .next
        { s with phase := .sync 0, buf := [], hdr := Header.unwritten, crcb := [],
                 status := if ok then 0x1#4 else 0x2#4, callActive := false,
                 results := s.results ++ [.decoded f] }

/-- R240-R243, R209, R250, R252: a Range frame whose entries fit is decoded: `n` observations in order, observation i
read at `base + i * 44`, its status word unpacked by the table; the frame delivered carries every header register and
the receiver status with its flags (R154, R208). -/
def Obligations.RangeIsDecoded : Prop :=
  ∀ (s : State) (h : HeaderRecord) (ok : Bool) (n : Word16), s.holdsFrame h →
    (ok = true ∨ s.cfg.crcPolicy = .lenient) → layoutFits s.cfg.layout = true → h.messageId = s.cfg.msgidRange →
    rangeMinLen s.cfg.layout.range ≤ h.messageLength.toNat →
    payU16 (s.payload h) s.cfg.layout.range.numObservations = some n →
    s.cfg.layout.range.base + n.toNat * 44 ≤ h.messageLength.toNat →
    ∃ (es : List RangeEntry) (f : DecodedFrame), s.delivers f ∧ f.header = h ∧ f.record = .range ⟨n, es⟩ ∧ f.crcOk = ok ∧
      es.length = n.toNat ∧
      (∀ (i : Nat) (e : RangeEntry), es[i]? = some e →
        let p := s.payload h
        let l := s.cfg.layout.range
        let o := l.base + i * 44
        payU16 p (o + l.prn) = some e.prn ∧ payF64 p (o + l.pseudorange) = some e.pseudorange ∧
        payF32 p (o + l.pseudorangeStdev) = some e.pseudorangeStdev ∧ payF64 p (o + l.adr) = some e.adr ∧
        payF32 p (o + l.adrStdev) = some e.adrStdev ∧ payF32 p (o + l.doppler) = some e.doppler ∧
        payF32 p (o + l.cn0) = some e.cn0 ∧ payF32 p (o + l.locktime) = some e.locktime ∧
        payU32 p (o + l.trackingStatus) = some e.trackingStatus.raw ∧
        e.trackingStatus.fields = unpack e.trackingStatus.raw s.cfg.trackStatusTable) ∧
      exec (.dispatchRange ok) s = .next
        { s with phase := .sync 0, buf := [], hdr := Header.unwritten, crcb := [],
                 status := if ok then 0x1#4 else 0x2#4, callActive := false,
                 results := s.results ++ [.decoded f] }

/-- R250: the entries of a repeated group are exactly `n`, entry i read at `b + i * s`; the three strides. -/
def Obligations.RepeatedGroupReadsItsEntriesInOrder : Prop :=
  (satStride = 68 ∧ trackStride = 40 ∧ rangeStride = 44) ∧
  ∀ (α : Type) (entry : Nat → Option α) (b stride n : Nat) (es : List α),
    readGroup entry stride n b = some es ↔
      es.length = n ∧ ∀ i : Nat, i < n → ∃ e, es[i]? = some e ∧ entry (b + i * stride) = some e

/-! ## Reads -/

/-- The buffer's reads of one, two, four and eight bytes are the little-endian numbers of the bytes at their addresses,
at any alignment (R54). The payload's reads at `o` are those at `28 + o` (R56, R202): u8, u16 and u32 the number, f32 and
f64 the pattern, i16 and i32 the two's-complement integer (R58), and a field whose width is part of the layout the number
of its width (log 15). That a read which runs past the buffer, or past the payload's length, gives nothing is the model's
choice (logs 12, 13). -/
def Obligations.ReadsAreLittleEndian : Prop :=
  (∀ (m : Memory) (o : Nat), Memory.wf m = true →
    Memory.read m o = (Memory.bytes m)[o]? ∧
    (o + 2 ≤ m.length → ∃ v, Memory.read16 m o = some v ∧ v.toNat = leNat (((Memory.bytes m).drop o).take 2)) ∧
    (o + 4 ≤ m.length → ∃ v, Memory.read32 m o = some v ∧ v.toNat = leNat (((Memory.bytes m).drop o).take 4)) ∧
    (o + 8 ≤ m.length → ∃ v, Memory.read64 m o = some v ∧ v.toNat = leNat (((Memory.bytes m).drop o).take 8)) ∧
    (m.length < o + 2 → Memory.read16 m o = none) ∧ (m.length < o + 4 → Memory.read32 m o = none) ∧
    (m.length < o + 8 → Memory.read64 m o = none)) ∧
  ∀ (p : Payload) (o : Nat), Memory.wf p.mem = true → p.mem.length = 28 + p.len →
    let number (n : Nat) : Nat := leNat (((Memory.bytes p.mem).drop (28 + o)).take n)
    (o + 1 ≤ p.len →
      (∃ v, payU8 p o = some v ∧ v.toNat = number 1) ∧ payUnsigned p ⟨.u8, o⟩ = some (number 1)) ∧
    (o + 2 ≤ p.len →
      (∃ v, payU16 p o = some v ∧ v.toNat = number 2) ∧ payUnsigned p ⟨.u16, o⟩ = some (number 2) ∧
      payI16 p o = some (if number 2 < 32768 then (number 2 : Int) else (number 2 : Int) - 65536)) ∧
    (o + 4 ≤ p.len →
      (∃ v, payU32 p o = some v ∧ payF32 p o = some v ∧ v.toNat = number 4) ∧
      payUnsigned p ⟨.u32, o⟩ = some (number 4) ∧
      payI32 p o = some (if number 4 < 2147483648 then (number 4 : Int) else (number 4 : Int) - 4294967296)) ∧
    (o + 8 ≤ p.len → ∃ v, payF64 p o = some v ∧ v.toNat = number 8) ∧
    (p.len < o + 1 → payU8 p o = none ∧ payUnsigned p ⟨.u8, o⟩ = none) ∧
    (p.len < o + 2 → payU16 p o = none ∧ payUnsigned p ⟨.u16, o⟩ = none ∧ payI16 p o = none) ∧
    (p.len < o + 4 →
      payU32 p o = none ∧ payF32 p o = none ∧ payUnsigned p ⟨.u32, o⟩ = none ∧ payI32 p o = none) ∧
    (p.len < o + 8 → payF64 p o = none)

/-! ## The internal functions -/

/-- R120, R122, R124, R206: CRC32, TABLE_VALUE, BSWAP32 and UNPACK complete in every state and write no state of the
block; the value is returned in the model's own field (log 9). -/
def Obligations.InternalFunctionsWriteNoBlockState : Prop :=
  ∀ s : State,
    (∀ bytes, exec (.crc32 bytes) s = .next { s with fnResult := some (.word (crc32 bytes)) }) ∧
    (∀ i : Byte, exec (.tableValue i) s = .next { s with fnResult := some (.word (tableValue (i.setWidth 32))) }) ∧
    (∀ v, exec (.bswap32 v) s = .next { s with fnResult := some (.word (bswap32 v)) }) ∧
    (∀ w table, exec (.unpack w table) s = .next { s with fnResult := some (.fields (unpack w table)) })

/-- R211: SQUARE64 completes in every state. Its value is, in exact arithmetic, the square of a finite operand; zeros give
+0 and infinities +inf; the sign of the operand does not matter; and a NaN gives a NaN, whichever draw it takes
(log 6). -/
def Obligations.SquareIsExact : Prop :=
  (∀ (s : State) (w : Word32), exec (.square64 w) s =
      .next { s with fnResult := some (.double (square64 s.draw w)), draw := s.draw + 1 }) ∧
    ∀ (k : Nat) (w : Word32),
      (f32IsNan w = true → f64IsNan (square64 k w) = true) ∧
      (f32IsInf w = true → square64 k w = 0x7FF0000000000000#64) ∧
      (f32IsNan w = false → f32IsInf w = false →
        f64IsNan (square64 k w) = false ∧ f64Value (square64 k w) = f32Magnitude w * f32Magnitude w) ∧
      (f32Significand w = 0 → f32Exponent w = 0 → square64 k w = 0x0000000000000000#64) ∧
      square64 k (w ^^^ 0x80000000#32) = square64 k w

/-- R206: UNPACK gives each entry, in the table's order, the number of the bits it names. -/
def Obligations.UnpackTakesTheNamedBits : Prop :=
  ∀ (w : Word32) (table : BitTable) (i : Nat) (e : BitSlice), table[i]? = some e → BitSlice.inWord e = true →
    ∃ v : Word32, (unpack w table)[i]? = some (e.name, v) ∧ v.toNat = w.toNat / 2 ^ e.offset % 2 ^ e.width ∧
      (unpack w table).length = table.length

/-- R207: for a table whose fields partition bits 31:0, as both default tables do, repacking the unpacked word gives it
back. -/
def Obligations.RepackRestoresTheWord : Prop :=
  (∀ (w : Word32) (table : BitTable), partitionsWord table = true → repack (unpack w table) table = w) ∧
    partitionsWord defaultTrackStatusTable = true ∧ partitionsWord (rxBitTable defaultConfig) = true

/-- R121, R122: the corner values of table_value and its worked example; the empty sequence and sequences of zero bytes
give 0, and each byte is one step of the register. -/
def Obligations.CrcOfZeroBytesIsZero : Prop :=
  tableValue 0#32 = 0#32 ∧ tableValue 0x80#32 = 0xEDB88320#32 ∧ tableValue 1#32 = 0x77073096#32 ∧
    crc32 [] = 0#32 ∧ (∀ n, crc32 (List.replicate n 0#8) = 0#32) ∧
    ∀ (bytes : List Byte) (b : Byte), crc32 (bytes ++ [b]) =
      (crc32 bytes >>> 8) ^^^ tableValue ((crc32 bytes ^^^ b.setWidth 32) &&& 0xFF#32)

/-- R125: the CRC is linear, and zero bytes in front do not change it. -/
def Obligations.CrcIsLinear : Prop :=
  (∀ a b : List Byte, a.length = b.length →
      crc32 (List.zipWith (fun x y => x ^^^ y) a b) = crc32 a ^^^ crc32 b) ∧
    ∀ (n : Nat) (bytes : List Byte), crc32 (List.replicate n 0#8 ++ bytes) = crc32 bytes

/-- R126: flipping any one bit of the covered bytes changes the CRC. -/
def Obligations.CrcDetectsEverySingleBit : Prop :=
  ∀ (bytes : List Byte) (i : Nat) (j : Fin 8), i < bytes.length → crc32 (flipBit bytes i j) ≠ crc32 bytes

/-- R124: bswap32 reverses the four bytes, is its own inverse, and keeps 0. -/
def Obligations.ByteSwapReverses : Prop :=
  (∀ b0 b1 b2 b3 : Byte, bswap32 (le32 b0 b1 b2 b3) = le32 b3 b2 b1 b0) ∧
    (∀ v : Word32, bswap32 (bswap32 v) = v) ∧ bswap32 0#32 = 0#32 ∧ bswap32 0x12345678#32 = 0x78563412#32
end

