-- ==== Sys2Proof/Laws/Memory.lean ====
section
/-! SUPPORT. The frame buffer: every operation keeps its canonical form, and a read after an append. -/

namespace Sys2Proof.Machine

@[simp] theorem memory_read_nil (o : Nat) : Memory.read [] o = none := rfl

@[simp] theorem memory_append_length (m : Memory) (v : Byte) : (Memory.append m v).length = m.length + 1 := by
  simp [Memory.append]

@[simp] theorem memory_append_bytes (m : Memory) (v : Byte) :
    Memory.bytes (Memory.append m v) = Memory.bytes m ++ [v] := by
  simp [Memory.append, Memory.bytes]

@[simp] theorem memory_bytes_length (m : Memory) : (Memory.bytes m).length = m.length := by simp [Memory.bytes]

theorem memory_wf_nil : Memory.wf [] = true := rfl

/-- The one write keeps the canonical form (R52). -/
theorem memory_append_wf {m : Memory} (v : Byte) (h : Memory.wf m = true) : Memory.wf (Memory.append m v) = true := by
  simp only [Memory.wf, beq_iff_eq] at h
  simp [Memory.wf, Memory.append, h, List.range_succ]

/-- An append changes no other address, whatever the buffer. -/
theorem memory_read_append_other (m : Memory) (v : Byte) {o : Nat} (h : o ≠ m.length) :
    Memory.read (Memory.append m v) o = Memory.read m o := by
  unfold Memory.append
  generalize m.length = l at h ⊢
  induction m with
  | nil => simp [Memory.read, Ne.symm h]
  | cons c m ih => simp only [List.cons_append, Memory.read, ih]

theorem memory_read_range' {m : Memory} {a : Nat} (h : m.map Prod.fst = List.range' a m.length) (o : Nat) :
    Memory.read m (a + o) = (Memory.bytes m)[o]? := by
  induction m generalizing a o with
  | nil => rfl
  | cons c m ih =>
    simp only [List.map_cons, List.length_cons, List.range'_succ, List.cons.injEq] at h
    obtain ⟨h0, h1⟩ := h
    cases o with
    | zero => simp [Memory.read, Memory.bytes, h0]
    | succ o =>
      have e : a + (o + 1) = a + 1 + o := by omega
      have hne : c.1 ≠ a + 1 + o := by omega
      rw [e]
      simpa [Memory.read, hne, Memory.bytes] using ih h1 o

/-- In the canonical form, address o holds byte o of the sequence (R50). -/
theorem memory_read_eq_bytes {m : Memory} (h : Memory.wf m = true) (o : Nat) :
    Memory.read m o = (Memory.bytes m)[o]? := by
  have h' : m.map Prod.fst = List.range' 0 m.length := by
    simpa [Memory.wf, List.range_eq_range'] using h
  simpa using memory_read_range' h' o

theorem memory_read_isSome {m : Memory} (h : Memory.wf m = true) {o : Nat} (ho : o < m.length) :
    ∃ b, Memory.read m o = some b := by
  rw [memory_read_eq_bytes h]
  exact ⟨_, List.getElem?_eq_getElem (by simpa using ho)⟩

theorem memory_read_none {m : Memory} (h : Memory.wf m = true) {o : Nat} (ho : m.length ≤ o) :
    Memory.read m o = none := by
  rw [memory_read_eq_bytes h]; exact List.getElem?_eq_none (by simpa using ho)

/-- The byte just appended is read back. -/
theorem memory_read_append_self {m : Memory} (h : Memory.wf m = true) (v : Byte) :
    Memory.read (Memory.append m v) m.length = some v := by
  rw [memory_read_eq_bytes (memory_append_wf v h)]
  simp

theorem memory_read16_isSome {m : Memory} (h : Memory.wf m = true) {o : Nat} (ho : o + 2 ≤ m.length) :
    ∃ b0 b1, Memory.read m o = some b0 ∧ Memory.read m (o + 1) = some b1 ∧
      Memory.read16 m o = some (le16 b0 b1) := by
  obtain ⟨b0, h0⟩ := memory_read_isSome h (show o < m.length by omega)
  obtain ⟨b1, h1⟩ := memory_read_isSome h (show o + 1 < m.length by omega)
  exact ⟨b0, b1, h0, h1, by simp [Memory.read16, h0, h1]⟩

theorem memory_read32_isSome {m : Memory} (h : Memory.wf m = true) {o : Nat} (ho : o + 4 ≤ m.length) :
    ∃ v, Memory.read32 m o = some v := by
  obtain ⟨b0, h0⟩ := memory_read_isSome h (show o < m.length by omega)
  obtain ⟨b1, h1⟩ := memory_read_isSome h (show o + 1 < m.length by omega)
  obtain ⟨b2, h2⟩ := memory_read_isSome h (show o + 2 < m.length by omega)
  obtain ⟨b3, h3⟩ := memory_read_isSome h (show o + 3 < m.length by omega)
  exact ⟨le32 b0 b1 b2 b3, by simp [Memory.read32, h0, h1, h2, h3]⟩

theorem memory_read64_isSome {m : Memory} (h : Memory.wf m = true) {o : Nat} (ho : o + 8 ≤ m.length) :
    ∃ v, Memory.read64 m o = some v := by
  obtain ⟨lo, h0⟩ := memory_read32_isSome h (show o + 4 ≤ m.length by omega)
  obtain ⟨hi, h1⟩ := memory_read32_isSome h (show o + 4 + 4 ≤ m.length by omega)
  exact ⟨le64 lo hi, by simp [Memory.read64, h0, h1]⟩

theorem memory_read16_none {m : Memory} (h : Memory.wf m = true) {o : Nat} (ho : m.length < o + 2) :
    Memory.read16 m o = none := by
  have h1 := memory_read_none h (show m.length ≤ o + 1 by omega)
  cases h0 : Memory.read m o <;> simp [Memory.read16, h0, h1]

theorem memory_read32_none {m : Memory} (h : Memory.wf m = true) {o : Nat} (ho : m.length < o + 4) :
    Memory.read32 m o = none := by
  have h3 := memory_read_none h (show m.length ≤ o + 3 by omega)
  cases h0 : Memory.read m o <;> cases h1 : Memory.read m (o + 1) <;> cases h2 : Memory.read m (o + 2) <;>
    simp [Memory.read32, h0, h1, h2, h3]

/-- An append does not change a 16-bit read that lies below it. -/
theorem memory_read16_append (m : Memory) (v : Byte) {o : Nat} (h0 : o ≠ m.length) (h1 : o + 1 ≠ m.length) :
    Memory.read16 (Memory.append m v) o = Memory.read16 m o := by
  simp [Memory.read16, memory_read_append_other, h0, h1]

/-- An append does not change a 32-bit read that does not touch it. -/
theorem memory_read32_append (m : Memory) (v : Byte) {o : Nat} (h0 : o ≠ m.length) (h1 : o + 1 ≠ m.length)
    (h2 : o + 2 ≠ m.length) (h3 : o + 3 ≠ m.length) :
    Memory.read32 (Memory.append m v) o = Memory.read32 m o := by
  simp [Memory.read32, memory_read_append_other, h0, h1, h2, h3]

/-! ## Payload reads (R56): a read that ends at or before L succeeds -/

variable {p : Payload} (hw : Memory.wf p.mem = true) (hl : p.mem.length = 28 + p.len)
include hw hl

theorem payU8_isSome {o : Nat} (h : o + 1 ≤ p.len) : ∃ v, payU8 p o = some v := by
  obtain ⟨v, e⟩ := memory_read_isSome hw (show 28 + o < p.mem.length by omega)
  exact ⟨v, by simp [payU8, h, e]⟩

theorem payU16_isSome {o : Nat} (h : o + 2 ≤ p.len) : ∃ v, payU16 p o = some v := by
  obtain ⟨b0, b1, _, _, e⟩ := memory_read16_isSome hw (show 28 + o + 2 ≤ p.mem.length by omega)
  exact ⟨le16 b0 b1, by simp [payU16, h, e]⟩

theorem payU32_isSome {o : Nat} (h : o + 4 ≤ p.len) : ∃ v, payU32 p o = some v := by
  obtain ⟨v, e⟩ := memory_read32_isSome hw (show 28 + o + 4 ≤ p.mem.length by omega)
  exact ⟨v, by simp [payU32, h, e]⟩

theorem payF64_isSome {o : Nat} (h : o + 8 ≤ p.len) : ∃ v, payF64 p o = some v := by
  obtain ⟨v, e⟩ := memory_read64_isSome hw (show 28 + o + 8 ≤ p.mem.length by omega)
  exact ⟨v, by simp [payF64, h, e]⟩

theorem payUnsigned_isSome {f : UField} (h : fieldEnd f ≤ p.len) : ∃ v, payUnsigned p f = some v := by
  obtain ⟨w, o⟩ := f
  cases w
  · obtain ⟨v, e⟩ := payU8_isSome hw hl (o := o) h; exact ⟨v.toNat, by simp [payUnsigned, e]⟩
  · obtain ⟨v, e⟩ := payU16_isSome hw hl (o := o) h; exact ⟨v.toNat, by simp [payUnsigned, e]⟩
  · obtain ⟨v, e⟩ := payU32_isSome hw hl (o := o) h; exact ⟨v.toNat, by simp [payUnsigned, e]⟩

end Sys2Proof.Machine
end

