-- ==== Sys2Proof/Laws/State.lean ====
section
/-! SUPPORT. Every field of the state after every update, by definition. -/

namespace Sys2Proof.Machine

/-! ## setPhase -/

@[simp] theorem setPhase_phase (s : State) (ph : Phase) : (s.setPhase ph).phase = ph := rfl
@[simp] theorem setPhase_buf (s : State) (ph : Phase) : (s.setPhase ph).buf = s.buf := rfl
@[simp] theorem setPhase_hdr (s : State) (ph : Phase) : (s.setPhase ph).hdr = s.hdr := rfl
@[simp] theorem setPhase_crcb (s : State) (ph : Phase) : (s.setPhase ph).crcb = s.crcb := rfl
@[simp] theorem setPhase_status (s : State) (ph : Phase) : (s.setPhase ph).status = s.status := rfl
@[simp] theorem setPhase_callActive (s : State) (ph : Phase) : (s.setPhase ph).callActive = s.callActive := rfl
@[simp] theorem setPhase_nRead (s : State) (ph : Phase) : (s.setPhase ph).nRead = s.nRead := rfl
@[simp] theorem setPhase_cfg (s : State) (ph : Phase) : (s.setPhase ph).cfg = s.cfg := rfl
@[simp] theorem setPhase_transport (s : State) (ph : Phase) : (s.setPhase ph).transport = s.transport := rfl
@[simp] theorem setPhase_host (s : State) (ph : Phase) : (s.setPhase ph).host = s.host := rfl
@[simp] theorem setPhase_results (s : State) (ph : Phase) : (s.setPhase ph).results = s.results := rfl
@[simp] theorem setPhase_fnResult (s : State) (ph : Phase) : (s.setPhase ph).fnResult = s.fnResult := rfl
@[simp] theorem setPhase_draw (s : State) (ph : Phase) : (s.setPhase ph).draw = s.draw := rfl

/-! ## drew -/

@[simp] theorem drew_phase (s : State) (n : Nat) : (s.drew n).phase = s.phase := rfl
@[simp] theorem drew_buf (s : State) (n : Nat) : (s.drew n).buf = s.buf := rfl
@[simp] theorem drew_hdr (s : State) (n : Nat) : (s.drew n).hdr = s.hdr := rfl
@[simp] theorem drew_crcb (s : State) (n : Nat) : (s.drew n).crcb = s.crcb := rfl
@[simp] theorem drew_status (s : State) (n : Nat) : (s.drew n).status = s.status := rfl
@[simp] theorem drew_callActive (s : State) (n : Nat) : (s.drew n).callActive = s.callActive := rfl
@[simp] theorem drew_nRead (s : State) (n : Nat) : (s.drew n).nRead = s.nRead := rfl
@[simp] theorem drew_cfg (s : State) (n : Nat) : (s.drew n).cfg = s.cfg := rfl
@[simp] theorem drew_transport (s : State) (n : Nat) : (s.drew n).transport = s.transport := rfl
@[simp] theorem drew_host (s : State) (n : Nat) : (s.drew n).host = s.host := rfl
@[simp] theorem drew_results (s : State) (n : Nat) : (s.drew n).results = s.results := rfl
@[simp] theorem drew_fnResult (s : State) (n : Nat) : (s.drew n).fnResult = s.fnResult := rfl
@[simp] theorem drew_draw (s : State) (n : Nat) : (s.drew n).draw = s.draw + n := rfl

@[simp] theorem drew_zero (s : State) : s.drew 0 = s := rfl
@[simp] theorem drew_drew (s : State) (m n : Nat) : (s.drew m).drew n = s.drew (m + n) := by
  simp [State.drew, Nat.add_assoc]

/-- Free values taken after the end of a frame are taken before it. -/
@[simp] theorem discarded_drew (c : EventCode) (s : State) (n : Nat) :
    (discarded c s).drew n = discarded c (s.drew n) := rfl
@[simp] theorem raised_drew (e : DecodeError) (s : State) (n : Nat) : (raised e s).drew n = raised e (s.drew n) := rfl
@[simp] theorem emitted_drew (f : DecodedFrame) (s : State) (n : Nat) : (emitted f s).drew n = emitted f (s.drew n) := rfl

/-! ## clearFrame -/

@[simp] theorem clearFrame_phase (s : State) : (s.clearFrame).phase = .sync 0 := rfl
@[simp] theorem clearFrame_buf (s : State) : (s.clearFrame).buf = [] := rfl
@[simp] theorem clearFrame_hdr (s : State) : (s.clearFrame).hdr = Header.unwritten := rfl
@[simp] theorem clearFrame_crcb (s : State) : (s.clearFrame).crcb = [] := rfl
@[simp] theorem clearFrame_status (s : State) : (s.clearFrame).status = s.status := rfl
@[simp] theorem clearFrame_callActive (s : State) : (s.clearFrame).callActive = s.callActive := rfl
@[simp] theorem clearFrame_nRead (s : State) : (s.clearFrame).nRead = s.nRead := rfl
@[simp] theorem clearFrame_cfg (s : State) : (s.clearFrame).cfg = s.cfg := rfl
@[simp] theorem clearFrame_transport (s : State) : (s.clearFrame).transport = s.transport := rfl
@[simp] theorem clearFrame_host (s : State) : (s.clearFrame).host = s.host := rfl
@[simp] theorem clearFrame_results (s : State) : (s.clearFrame).results = s.results := rfl
@[simp] theorem clearFrame_fnResult (s : State) : (s.clearFrame).fnResult = s.fnResult := rfl
@[simp] theorem clearFrame_draw (s : State) : (s.clearFrame).draw = s.draw := rfl

/-! ## endCall -/

@[simp] theorem endCall_phase (s : State) (r : FrameResult) : (s.endCall r).phase = s.phase := rfl
@[simp] theorem endCall_buf (s : State) (r : FrameResult) : (s.endCall r).buf = s.buf := rfl
@[simp] theorem endCall_hdr (s : State) (r : FrameResult) : (s.endCall r).hdr = s.hdr := rfl
@[simp] theorem endCall_crcb (s : State) (r : FrameResult) : (s.endCall r).crcb = s.crcb := rfl
@[simp] theorem endCall_status (s : State) (r : FrameResult) : (s.endCall r).status = s.status := rfl
@[simp] theorem endCall_callActive (s : State) (r : FrameResult) : (s.endCall r).callActive = false := rfl
@[simp] theorem endCall_nRead (s : State) (r : FrameResult) : (s.endCall r).nRead = s.nRead := rfl
@[simp] theorem endCall_cfg (s : State) (r : FrameResult) : (s.endCall r).cfg = s.cfg := rfl
@[simp] theorem endCall_transport (s : State) (r : FrameResult) : (s.endCall r).transport = s.transport := rfl
@[simp] theorem endCall_host (s : State) (r : FrameResult) : (s.endCall r).host = s.host := rfl
@[simp] theorem endCall_results (s : State) (r : FrameResult) : (s.endCall r).results = s.results ++ [r] := rfl
@[simp] theorem endCall_fnResult (s : State) (r : FrameResult) : (s.endCall r).fnResult = s.fnResult := rfl
@[simp] theorem endCall_draw (s : State) (r : FrameResult) : (s.endCall r).draw = s.draw := rfl

/-! ## return -/

@[simp] theorem return_phase (s : State) (r : FnResult) : (s.return r).phase = s.phase := rfl
@[simp] theorem return_buf (s : State) (r : FnResult) : (s.return r).buf = s.buf := rfl
@[simp] theorem return_hdr (s : State) (r : FnResult) : (s.return r).hdr = s.hdr := rfl
@[simp] theorem return_crcb (s : State) (r : FnResult) : (s.return r).crcb = s.crcb := rfl
@[simp] theorem return_status (s : State) (r : FnResult) : (s.return r).status = s.status := rfl
@[simp] theorem return_callActive (s : State) (r : FnResult) : (s.return r).callActive = s.callActive := rfl
@[simp] theorem return_nRead (s : State) (r : FnResult) : (s.return r).nRead = s.nRead := rfl
@[simp] theorem return_cfg (s : State) (r : FnResult) : (s.return r).cfg = s.cfg := rfl
@[simp] theorem return_transport (s : State) (r : FnResult) : (s.return r).transport = s.transport := rfl
@[simp] theorem return_host (s : State) (r : FnResult) : (s.return r).host = s.host := rfl
@[simp] theorem return_results (s : State) (r : FnResult) : (s.return r).results = s.results := rfl
@[simp] theorem return_fnResult (s : State) (r : FnResult) : (s.return r).fnResult = some r := rfl
@[simp] theorem return_draw (s : State) (r : FnResult) : (s.return r).draw = s.draw := rfl

/-! ## push -/

@[simp] theorem push_phase (s : State) (v : Byte) : (s.push v).phase = s.phase := rfl
@[simp] theorem push_buf (s : State) (v : Byte) : (s.push v).buf = Memory.append s.buf v := rfl
@[simp] theorem push_hdr (s : State) (v : Byte) : (s.push v).hdr = s.hdr := rfl
@[simp] theorem push_crcb (s : State) (v : Byte) : (s.push v).crcb = s.crcb := rfl
@[simp] theorem push_status (s : State) (v : Byte) : (s.push v).status = s.status := rfl
@[simp] theorem push_callActive (s : State) (v : Byte) : (s.push v).callActive = s.callActive := rfl
@[simp] theorem push_nRead (s : State) (v : Byte) : (s.push v).nRead = s.nRead := rfl
@[simp] theorem push_cfg (s : State) (v : Byte) : (s.push v).cfg = s.cfg := rfl
@[simp] theorem push_transport (s : State) (v : Byte) : (s.push v).transport = s.transport := rfl
@[simp] theorem push_host (s : State) (v : Byte) : (s.push v).host = s.host := rfl
@[simp] theorem push_results (s : State) (v : Byte) : (s.push v).results = s.results := rfl
@[simp] theorem push_fnResult (s : State) (v : Byte) : (s.push v).fnResult = s.fnResult := rfl
@[simp] theorem push_draw (s : State) (v : Byte) : (s.push v).draw = s.draw := rfl

/-! ## discarded -/

@[simp] theorem discarded_phase (c : EventCode) (s : State) : (discarded c s).phase = .sync 0 := rfl
@[simp] theorem discarded_buf (c : EventCode) (s : State) : (discarded c s).buf = [] := rfl
@[simp] theorem discarded_hdr (c : EventCode) (s : State) : (discarded c s).hdr = Header.unwritten := rfl
@[simp] theorem discarded_crcb (c : EventCode) (s : State) : (discarded c s).crcb = [] := rfl
@[simp] theorem discarded_status (c : EventCode) (s : State) : (discarded c s).status = c.bits := rfl
@[simp] theorem discarded_callActive (c : EventCode) (s : State) : (discarded c s).callActive = s.callActive := rfl
@[simp] theorem discarded_nRead (c : EventCode) (s : State) : (discarded c s).nRead = s.nRead := rfl
@[simp] theorem discarded_cfg (c : EventCode) (s : State) : (discarded c s).cfg = s.cfg := rfl
@[simp] theorem discarded_transport (c : EventCode) (s : State) : (discarded c s).transport = s.transport := rfl
@[simp] theorem discarded_host (c : EventCode) (s : State) : (discarded c s).host = s.host := rfl
@[simp] theorem discarded_results (c : EventCode) (s : State) : (discarded c s).results = s.results := rfl
@[simp] theorem discarded_fnResult (c : EventCode) (s : State) : (discarded c s).fnResult = s.fnResult := rfl
@[simp] theorem discarded_draw (c : EventCode) (s : State) : (discarded c s).draw = s.draw := rfl

/-! ## raised -/

@[simp] theorem raised_phase (e : DecodeError) (s : State) : (raised e s).phase = .sync 0 := rfl
@[simp] theorem raised_buf (e : DecodeError) (s : State) : (raised e s).buf = [] := rfl
@[simp] theorem raised_hdr (e : DecodeError) (s : State) : (raised e s).hdr = Header.unwritten := rfl
@[simp] theorem raised_crcb (e : DecodeError) (s : State) : (raised e s).crcb = [] := rfl
@[simp] theorem raised_status (e : DecodeError) (s : State) : (raised e s).status = e.code.bits := rfl
@[simp] theorem raised_callActive (e : DecodeError) (s : State) : (raised e s).callActive = false := rfl
@[simp] theorem raised_nRead (e : DecodeError) (s : State) : (raised e s).nRead = s.nRead := rfl
@[simp] theorem raised_cfg (e : DecodeError) (s : State) : (raised e s).cfg = s.cfg := rfl
@[simp] theorem raised_transport (e : DecodeError) (s : State) : (raised e s).transport = s.transport := rfl
@[simp] theorem raised_host (e : DecodeError) (s : State) : (raised e s).host = s.host := rfl
@[simp] theorem raised_results (e : DecodeError) (s : State) : (raised e s).results = s.results ++ [.error e.kind] := rfl
@[simp] theorem raised_fnResult (e : DecodeError) (s : State) : (raised e s).fnResult = s.fnResult := rfl
@[simp] theorem raised_draw (e : DecodeError) (s : State) : (raised e s).draw = s.draw := rfl

/-! ## emitted -/

@[simp] theorem emitted_phase (f : DecodedFrame) (s : State) : (emitted f s).phase = .sync 0 := rfl
@[simp] theorem emitted_buf (f : DecodedFrame) (s : State) : (emitted f s).buf = [] := rfl
@[simp] theorem emitted_hdr (f : DecodedFrame) (s : State) : (emitted f s).hdr = Header.unwritten := rfl
@[simp] theorem emitted_crcb (f : DecodedFrame) (s : State) : (emitted f s).crcb = [] := rfl
@[simp] theorem emitted_status (f : DecodedFrame) (s : State) : (emitted f s).status = (decodedCode f.crcOk).bits := rfl
@[simp] theorem emitted_callActive (f : DecodedFrame) (s : State) : (emitted f s).callActive = false := rfl
@[simp] theorem emitted_nRead (f : DecodedFrame) (s : State) : (emitted f s).nRead = s.nRead := rfl
@[simp] theorem emitted_cfg (f : DecodedFrame) (s : State) : (emitted f s).cfg = s.cfg := rfl
@[simp] theorem emitted_transport (f : DecodedFrame) (s : State) : (emitted f s).transport = s.transport := rfl
@[simp] theorem emitted_host (f : DecodedFrame) (s : State) : (emitted f s).host = s.host := rfl
@[simp] theorem emitted_results (f : DecodedFrame) (s : State) : (emitted f s).results = s.results ++ [.decoded f] := rfl
@[simp] theorem emitted_fnResult (f : DecodedFrame) (s : State) : (emitted f s).fnResult = s.fnResult := rfl
@[simp] theorem emitted_draw (f : DecodedFrame) (s : State) : (emitted f s).draw = s.draw := rfl

/-! ## The counted request: everything but the queue, the counter and the draw index is kept -/

@[simp] theorem request_phase (s : State) : (request s).2.phase = s.phase := by unfold request; split <;> rfl
@[simp] theorem request_buf (s : State) : (request s).2.buf = s.buf := by unfold request; split <;> rfl
@[simp] theorem request_hdr (s : State) : (request s).2.hdr = s.hdr := by unfold request; split <;> rfl
@[simp] theorem request_crcb (s : State) : (request s).2.crcb = s.crcb := by unfold request; split <;> rfl
@[simp] theorem request_status (s : State) : (request s).2.status = s.status := by unfold request; split <;> rfl
@[simp] theorem request_callActive (s : State) : (request s).2.callActive = s.callActive := by unfold request; split <;> rfl
@[simp] theorem request_cfg (s : State) : (request s).2.cfg = s.cfg := by unfold request; split <;> rfl
@[simp] theorem request_host (s : State) : (request s).2.host = s.host := by unfold request; split <;> rfl
@[simp] theorem request_results (s : State) : (request s).2.results = s.results := by unfold request; split <;> rfl
@[simp] theorem request_fnResult (s : State) : (request s).2.fnResult = s.fnResult := by unfold request; split <;> rfl
@[simp] theorem request_nRead (s : State) : (request s).2.nRead = s.nRead + 1 := by unfold request; split <;> rfl

theorem request_cons {s : State} {w : EventWord} {rest : List EventWord} (h : s.transport = w :: rest) :
    request s = (w, { s with transport := rest, nRead := s.nRead + 1 }) := by simp [request, h]

theorem request_nil {s : State} (h : s.transport = []) :
    request s = (encodeTransport (Config.freeAnswer s.draw), { s with draw := s.draw + 1, nRead := s.nRead + 1 }) := by
  simp [request, h]

/-! ## rebuiltWith -/

@[simp] theorem rebuiltWith_phase (s : State) (c : Config) : (s.rebuiltWith c).phase = .sync 0 := rfl
@[simp] theorem rebuiltWith_buf (s : State) (c : Config) : (s.rebuiltWith c).buf = [] := rfl
@[simp] theorem rebuiltWith_hdr (s : State) (c : Config) : (s.rebuiltWith c).hdr = Header.unwritten := rfl
@[simp] theorem rebuiltWith_crcb (s : State) (c : Config) : (s.rebuiltWith c).crcb = [] := rfl
@[simp] theorem rebuiltWith_status (s : State) (c : Config) : (s.rebuiltWith c).status = 0x0#4 := rfl
@[simp] theorem rebuiltWith_callActive (s : State) (c : Config) : (s.rebuiltWith c).callActive = false := rfl
@[simp] theorem rebuiltWith_nRead (s : State) (c : Config) : (s.rebuiltWith c).nRead = 0 := rfl
@[simp] theorem rebuiltWith_cfg (s : State) (c : Config) : (s.rebuiltWith c).cfg = c := rfl
@[simp] theorem rebuiltWith_transport (s : State) (c : Config) : (s.rebuiltWith c).transport = s.transport := rfl
@[simp] theorem rebuiltWith_host (s : State) (c : Config) : (s.rebuiltWith c).host = s.host := rfl
@[simp] theorem rebuiltWith_results (s : State) (c : Config) : (s.rebuiltWith c).results = s.results := rfl
@[simp] theorem rebuiltWith_fnResult (s : State) (c : Config) : (s.rebuiltWith c).fnResult = s.fnResult := rfl
@[simp] theorem rebuiltWith_draw (s : State) (c : Config) : (s.rebuiltWith c).draw = s.draw := rfl

/-- Building again right after a reset is a reset with the new configuration. -/
@[simp] theorem resetWith_rebuiltWith (c d : Config) : (State.resetWith c).rebuiltWith d = State.resetWith d := rfl
@[simp] theorem rebuiltWith_rebuiltWith (s : State) (c d : Config) :
    (s.rebuiltWith c).rebuiltWith d = s.rebuiltWith d := rfl

/-- The first request after a reset is answered by what the transport holds (70 R342). -/
theorem request_rebuiltWith (s : State) (c : Config) :
    request (s.rebuiltWith c) = ((request s).1, { (request s).2.rebuiltWith c with nRead := 1 }) := by
  cases h : s.transport <;> simp [request, State.rebuiltWith, h]

/-! ## Reset -/

@[simp] theorem resetWith_phase (c : Config) : (State.resetWith c).phase = .sync 0 := rfl
@[simp] theorem resetWith_buf (c : Config) : (State.resetWith c).buf = [] := rfl
@[simp] theorem resetWith_hdr (c : Config) : (State.resetWith c).hdr = Header.unwritten := rfl
@[simp] theorem resetWith_crcb (c : Config) : (State.resetWith c).crcb = [] := rfl
@[simp] theorem resetWith_status (c : Config) : (State.resetWith c).status = 0x0#4 := rfl
@[simp] theorem resetWith_callActive (c : Config) : (State.resetWith c).callActive = false := rfl
@[simp] theorem resetWith_nRead (c : Config) : (State.resetWith c).nRead = 0 := rfl
@[simp] theorem resetWith_cfg (c : Config) : (State.resetWith c).cfg = c := rfl
@[simp] theorem resetWith_transport (c : Config) : (State.resetWith c).transport = [] := rfl
@[simp] theorem resetWith_host (c : Config) : (State.resetWith c).host = [] := rfl
@[simp] theorem resetWith_results (c : Config) : (State.resetWith c).results = [] := rfl
@[simp] theorem resetWith_fnResult (c : Config) : (State.resetWith c).fnResult = none := rfl
@[simp] theorem resetWith_draw (c : Config) : (State.resetWith c).draw = 0 := rfl

end Sys2Proof.Machine
end

