-- ==== Sys2Proof/Laws/Ops.lean ====
section
/-! SUPPORT. What each shared operation can do, said once: an inversion for the operations that may stop, and the
conditions under which they complete. -/

namespace Sys2Proof.Machine

/-! ## Sequencing -/

@[simp] theorem andThen_next (s : State) (k : State → Result) : andThen (.next s) k = k s := rfl
@[simp] theorem andThen_fault (f : Fault) (k : State → Result) : andThen (.fault f) k = .fault f := rfl
@[simp] theorem andThen_refused (r : Refusal) (k : State → Result) : andThen (.refused r) k = .refused r := rfl

theorem andThen_eq_next {o : Result} {k : State → Result} {t : State} :
    andThen o k = .next t ↔ ∃ s, o = .next s ∧ k s = .next t := by
  cases o <;> simp

@[simp] theorem nextState_next (s : State) : nextState (.next s) = some s := rfl
@[simp] theorem nextState_fault (f : Fault) : nextState (.fault f) = none := rfl
@[simp] theorem nextState_refused (r : Refusal) : nextState (.refused r) = none := rfl

/-! ## Header registers -/

@[simp] theorem registerValue_some {w : Nat} (x : BitVec w) (offset draw : Nat) :
    registerValue (some x) offset draw = x := rfl
@[simp] theorem freeDraws_some {α : Type} (x : α) : freeDraws (some x) = 0 := rfl
@[simp] theorem freeDraws_none {α : Type} : freeDraws (none : Option α) = 1 := rfl

/-- A read of a written register goes on with its value and takes no free value (R24). -/
@[simp] theorem readRegister_some {w : Nat} (x : BitVec w) (offset : Nat) (s : State) (k : BitVec w → Result) :
    readRegister (some x) offset s k = k x := by
  unfold readRegister; simp only [registerValue_some, freeDraws_some]; cases k x <;> rfl

/-- A read never stops of its own: it stops exactly where what follows it stops (R25). -/
theorem readRegister_eq_next {w : Nat} {r : Option (BitVec w)} {offset : Nat} {s t : State} {k : BitVec w → Result} :
    readRegister r offset s k = .next t ↔
      ∃ u, k (registerValue r offset s.draw) = .next u ∧ t = u.drew (freeDraws r) := by
  simp [readRegister, andThen_eq_next, eq_comm (b := t)]

theorem readRegister_faultOf {w : Nat} (r : Option (BitVec w)) (offset : Nat) (s : State) (k : BitVec w → Result) :
    faultOf (readRegister r offset s k) = faultOf (k (registerValue r offset s.draw)) := by
  unfold readRegister; cases k (registerValue r offset s.draw) <;> rfl

theorem readRegister_refusalOf {w : Nat} (r : Option (BitVec w)) (offset : Nat) (s : State) (k : BitVec w → Result) :
    refusalOf (readRegister r offset s k) = refusalOf (k (registerValue r offset s.draw)) := by
  unfold readRegister; cases k (registerValue r offset s.draw) <;> rfl

/-! ## The buffer -/

/-- What an append to the buffer can do (R52). -/
theorem memWrite_eq_next {o : Nat} {v : Byte} {s t : State} :
    memWrite o v s = .next t ↔ (o = s.buf.length ∧ o < bufCapacity s.cfg) ∧ t = s.push v := by
  unfold memWrite
  split
  next h => exact ⟨fun e => ⟨h, by injection e with e; exact e.symm⟩, fun e => by rw [e.2]; rfl⟩
  next h => simp only [h, false_and, reduceCtorEq]

theorem memWrite_at_end {v : Byte} {s : State} (h : s.buf.length < bufCapacity s.cfg) :
    memWrite s.buf.length v s = .next (s.push v) := memWrite_eq_next.2 ⟨⟨rfl, h⟩, rfl⟩

/-- Writing a header register changes the header bank only. -/
theorem writeHeaderRegister_eq_next {p : Nat} {v : Byte} {s t : State} :
    writeHeaderRegister p v s = .next t ↔ ∃ h, headerAfter p v s.buf s.hdr = some h ∧ t = { s with hdr := h } := by
  unfold writeHeaderRegister
  cases headerAfter p v s.buf s.hdr <;> simp [eq_comm]

/-- `check_length` (R149, R150) of a written message length: a discard, or the next phase. -/
theorem checkLength_eq_next {ph : Phase} {s t : State} {len : Word16} (hm : s.hdr.messageLength = some len) :
    checkLength ph s = .next t ↔ (∃ c, lengthError s.cfg len = some c ∧ t = discarded c s) ∨
      (lengthError s.cfg len = none ∧ t = s.setPhase ph) := by
  unfold checkLength
  cases h : lengthError s.cfg len <;> simp [hm, h, discard, eq_comm]

theorem lengthError_eq_none {c : Config} {len : Word16} :
    lengthError c len = none ↔ 1 ≤ len.toNat ∧ len.toNat ≤ c.payloadCap := by
  unfold lengthError
  have : len = 0#16 ↔ len.toNat = 0 := by rw [BitVec.toNat_eq]; rfl
  by_cases h0 : len.toNat = 0
  · simp [this, h0]
  · simp [this, h0]; omega

/-! ## Dispatch -/

/-- A header record exists exactly when every register is written, and holds their values (41 R154). -/
theorem headerRecord_eq_some {h : Header} {r : HeaderRecord} :
    headerRecord h = some r ↔
      h = ⟨some r.headerLength, some r.messageId, some r.messageType, some r.portAddress, some r.messageLength,
        some r.sequence, some r.idleTime, some r.timeStatus, some r.gpsWeek, some r.gpsMilliseconds,
        some r.receiverStatus, some r.reserved, some r.receiverSwVersion⟩ := by
  constructor
  · intro e
    unfold headerRecord at e
    split at e
    · simp only [Option.some.injEq] at e; subst e; rfl
    · simp at e
  · rintro rfl; rfl

/-- The values of a bank whose registers are all written are its record, whatever the draw. -/
@[simp] theorem values_written {h : Header} {r : HeaderRecord} (e : headerRecord h = some r) (draw : Nat) :
    h.values draw = r := by
  rw [headerRecord_eq_some.1 e]; rfl

/-- DISPATCH of a frame whose header registers are all written (R200). -/
theorem dispatchWith_written {isId : Config → Word16 → Bool}
    {dec : State → Payload → Option (Except DecodeError Record)} {draws : Nat} {ok : Bool} {s : State}
    {h : HeaderRecord} (hr : headerRecord s.hdr = some h) :
    dispatchWith isId dec draws ok s =
      if isId s.cfg h.messageId && passesPolicy s.cfg ok then
        match dec s (s.payload h) with
        | none => .fault .payloadRead
        | some (.error e) => .next (raised e s)
        | some (.ok r) => .next (emitted (s.frameResult h r ok) { s with draw := s.draw + draws })
      else .refused .notSelected := by
  have hh := headerRecord_eq_some.1 hr
  have h1 : s.hdr.messageId = some h.messageId := by rw [hh]
  have h2 : s.hdr.messageLength = some h.messageLength := by rw [hh]
  simp only [dispatchWith, h1, h2, hr, readRegister_some, values_written hr, freeDraws_some]; rfl

/-- What a DISPATCH with a decoder can do, whatever is written (R200, R204, R252): only the draw counter depends on how
many registers are not. -/
theorem dispatchWith_eq_next {isId : Config → Word16 → Bool}
    {dec : State → Payload → Option (Except DecodeError Record)} {draws : Nat} {ok : Bool} {s t : State}
    (h : dispatchWith isId dec draws ok s = .next t) :
    isId s.cfg (s.hdr.values s.draw).messageId = true ∧ passesPolicy s.cfg ok = true ∧ ∃ k,
      ((∃ e, dec s (s.payload (s.hdr.values s.draw)) = some (.error e) ∧ t = raised e (s.drew k)) ∨
        ∃ r, dec s (s.payload (s.hdr.values s.draw)) = some (.ok r) ∧
          t = emitted (s.frameResult (s.hdr.values s.draw) r ok) (s.drew k)) := by
  unfold dispatchWith at h
  obtain ⟨u, hu, rfl⟩ := readRegister_eq_next.1 h
  split at hu
  next hg =>
    simp only [Bool.and_eq_true] at hg
    refine ⟨hg.1, hg.2, ?_⟩
    obtain ⟨v, hv, rfl⟩ := readRegister_eq_next.1 hu
    split at hv
    · simp at hv
    next e hd => injection hv with hv; subst hv; exact ⟨_, .inl ⟨e, hd, by simp only [raised_drew, drew_drew]; rfl⟩⟩
    next r hd => injection hv with hv; subst hv; exact ⟨_, .inr ⟨r, hd, by simp only [emitted_drew, drew_drew]; rfl⟩⟩
  next => simp at hu

/-! ## The call -/

/-- What READ can do in a call (R263). -/
theorem execRead_active {s : State} (h : s.callActive = true) :
    execRead s = if s.nRead = s.cfg.maxBytesPerCall then .next (s.endCall .noFrameYet)
      else runEvent (request s).1 (request s).2 := by simp [execRead, h]

/-- The event an answer spells is its decoding, run (R100, R263). -/
theorem runEvent_eq_exec (w : EventWord) (s : State) : runEvent w s = exec (decodeEvent w) s := by
  unfold runEvent decodeEvent; split_ifs <;> rfl

/-- What a step fetches in a call that no reentrant call disturbs (R263, R272). -/
theorem fetch_in_call {s : State} (hi : idsDistinct s.cfg = true) (hh : s.hostSerialized = true)
    (hc : s.callActive = true) : fetch s = fetchRead s := by
  unfold fetch; rw [if_pos hi]
  unfold State.hostSerialized at hh
  rcases e : s.host with _ | ⟨_ | _, _⟩
  · simp [fetchNoCall, hc]
  · simp [hc]
  · simp [e] at hh

/-! ## Event words -/

@[simp] theorem eventKind_eventWord (k : BitVec 2) (v : Byte) : eventKind (eventWord k v) = k := by
  revert k v; decide +kernel

@[simp] theorem eventLow_eventWord (k : BitVec 2) (v : Byte) : eventLow (eventWord k v) = v := by
  revert k v; decide +kernel

end Sys2Proof.Machine
end

