-- ==== Sys2Proof/Laws/Decoder.lean ====
section
/-! SUPPORT. The decoders: on a whole payload every decoder answers, so DISPATCH ends a whole frame in one of its three
ways (43_decoder R204, R251, R252). -/

namespace Sys2Proof.Machine

/-! ## Lengths and layouts -/

/-- Every row of a layout's fixed part ends at or before `min_len` (R94). -/
theorem le_maxEnd_of_mem {x : Nat} {l : List Nat} (h : x ∈ l) : x ≤ maxEnd l := by
  induction l with
  | nil => simp at h
  | cons a l ih =>
    simp only [maxEnd, List.foldr_cons] at *
    rcases List.mem_cons.1 h with rfl | h
    · omega
    · have := ih h; omega

/-- A row of entry `i` of `n` ends inside the payload when the entries fit it and the row fits the stride (R251). -/
theorem entry_row_fits {i n stride b k e len : Nat} (hi : i < n) (h : b + n * stride ≤ len) (hk : k + e ≤ stride) :
    b + i * stride + k + e ≤ len := by
  have : i * stride + stride ≤ n * stride := by nlinarith
  omega

/-- `readGroup` answers when every entry does (R250). -/
theorem readGroup_isSome {α : Type} (entry : Nat → Option α) (stride : Nat) {n b : Nat}
    (h : ∀ i, i < n → ∃ e, entry (b + i * stride) = some e) : ∃ es, readGroup entry stride n b = some es := by
  induction n generalizing b with
  | zero => exact ⟨[], rfl⟩
  | succ n ih =>
    obtain ⟨x, hx⟩ := h 0 (by omega)
    obtain ⟨xs, hxs⟩ := ih (b := b + stride) fun i hi => by
      obtain ⟨e, he⟩ := h (i + 1) (by omega)
      exact ⟨e, by rw [← he]; congr 1; ring⟩
    exact ⟨x :: xs, by simp at hx; simp [readGroup, hx, hxs]⟩

/-! ## Every decoder answers on a whole payload -/

section
variable {p : Payload} (hw : Memory.wf p.mem = true) (hl : p.mem.length = 28 + p.len)
include hw hl

theorem decBestPos_isSome (l : BestPosLayout) (k : Nat) : ∃ a, decBestPos l k p = some a := by
  unfold decBestPos
  split
  next => exact ⟨_, rfl⟩
  next h =>
    have hm : ∀ x, x ∈ _ → x ≤ p.len := fun x hx => (le_maxEnd_of_mem hx).trans (Nat.not_lt.1 h)
    obtain ⟨_, e1⟩ := payUnsigned_isSome hw hl (f := l.solutionStatus) (hm _ (by simp))
    obtain ⟨_, e2⟩ := payUnsigned_isSome hw hl (f := l.positionType) (hm _ (by simp))
    obtain ⟨_, e3⟩ := payF64_isSome hw hl (o := l.latitude) (hm _ (by simp))
    obtain ⟨_, e4⟩ := payF64_isSome hw hl (o := l.longitude) (hm _ (by simp))
    obtain ⟨_, e5⟩ := payF64_isSome hw hl (o := l.altitude) (hm _ (by simp))
    obtain ⟨_, e6⟩ := payU32_isSome hw hl (o := l.stdevLatitude) (hm _ (by simp))
    obtain ⟨_, e7⟩ := payU32_isSome hw hl (o := l.stdevLongitude) (hm _ (by simp))
    obtain ⟨_, e8⟩ := payU32_isSome hw hl (o := l.stdevAltitude) (hm _ (by simp))
    obtain ⟨_, e9⟩ := payUnsigned_isSome hw hl (f := l.numSatsTracked) (hm _ (by simp))
    obtain ⟨_, e10⟩ := payUnsigned_isSome hw hl (f := l.numSatsUsed) (hm _ (by simp))
    exact ⟨_, by simp only [readBestPos, payF32, e1, e2, e3, e4, e5, e6, e7, e8, e9, e10]; rfl⟩

theorem decBestXyz_isSome (l : BestXyzLayout) : ∃ a, decBestXyz l p = some a := by
  unfold decBestXyz
  split
  next => exact ⟨_, rfl⟩
  next h =>
    have hm : ∀ x, x ∈ _ → x ≤ p.len := fun x hx => (le_maxEnd_of_mem hx).trans (Nat.not_lt.1 h)
    obtain ⟨_, e1⟩ := payUnsigned_isSome hw hl (f := l.positionStatus) (hm _ (by simp))
    obtain ⟨_, e2⟩ := payUnsigned_isSome hw hl (f := l.positionType) (hm _ (by simp))
    obtain ⟨_, e3⟩ := payF64_isSome hw hl (o := l.positionX) (hm _ (by simp))
    obtain ⟨_, e4⟩ := payF64_isSome hw hl (o := l.positionY) (hm _ (by simp))
    obtain ⟨_, e5⟩ := payF64_isSome hw hl (o := l.positionZ) (hm _ (by simp))
    obtain ⟨_, e6⟩ := payU32_isSome hw hl (o := l.positionSigmaX) (hm _ (by simp))
    obtain ⟨_, e7⟩ := payU32_isSome hw hl (o := l.positionSigmaY) (hm _ (by simp))
    obtain ⟨_, e8⟩ := payU32_isSome hw hl (o := l.positionSigmaZ) (hm _ (by simp))
    obtain ⟨_, f1⟩ := payUnsigned_isSome hw hl (f := l.velocityStatus) (hm _ (by simp))
    obtain ⟨_, f2⟩ := payUnsigned_isSome hw hl (f := l.velocityType) (hm _ (by simp))
    obtain ⟨_, f3⟩ := payF64_isSome hw hl (o := l.velocityX) (hm _ (by simp))
    obtain ⟨_, f4⟩ := payF64_isSome hw hl (o := l.velocityY) (hm _ (by simp))
    obtain ⟨_, f5⟩ := payF64_isSome hw hl (o := l.velocityZ) (hm _ (by simp))
    obtain ⟨_, f6⟩ := payU32_isSome hw hl (o := l.velocitySigmaX) (hm _ (by simp))
    obtain ⟨_, f7⟩ := payU32_isSome hw hl (o := l.velocitySigmaY) (hm _ (by simp))
    obtain ⟨_, f8⟩ := payU32_isSome hw hl (o := l.velocitySigmaZ) (hm _ (by simp))
    obtain ⟨_, e9⟩ := payUnsigned_isSome hw hl (f := l.numSatsTracked) (hm _ (by simp))
    obtain ⟨_, e10⟩ := payUnsigned_isSome hw hl (f := l.numSatsUsed) (hm _ (by simp))
    exact ⟨_, by
      simp only [readBestXyz, payF32, e1, e2, e3, e4, e5, e6, e7, e8, e9, e10, f1, f2, f3, f4, f5, f6, f7, f8]; rfl⟩

theorem satEntry_isSome {c : Layout} (hf : layoutFits c = true) {n i : Nat} (hi : i < n)
    (h : c.satXyz.base + n * satStride ≤ p.len) :
    ∃ e, satEntry c.satXyz p (c.satXyz.base + i * satStride) = some e := by
  simp only [layoutFits, Bool.and_eq_true, decide_eq_true_eq] at hf
  obtain ⟨⟨⟨l1, l2, l3, l4, l5, l6, l7⟩, _⟩, _⟩ := hf
  obtain ⟨_, e1⟩ := payU32_isSome hw hl (entry_row_fits hi h l1)
  obtain ⟨_, e2⟩ := payF64_isSome hw hl (entry_row_fits hi h l2)
  obtain ⟨_, e3⟩ := payF64_isSome hw hl (entry_row_fits hi h l3)
  obtain ⟨_, e4⟩ := payF64_isSome hw hl (entry_row_fits hi h l4)
  obtain ⟨_, e5⟩ := payF64_isSome hw hl (entry_row_fits hi h l5)
  obtain ⟨_, e6⟩ := payF64_isSome hw hl (entry_row_fits hi h l6)
  obtain ⟨_, e7⟩ := payF64_isSome hw hl (entry_row_fits hi h l7)
  exact ⟨_, by simp only [satEntry, e1, e2, e3, e4, e5, e6, e7]; rfl⟩

theorem trackEntry_isSome (cfg : Config) {c : Layout} (hf : layoutFits c = true) {n i : Nat} (hi : i < n)
    (h : c.trackStat.base + n * trackStride ≤ p.len) :
    ∃ e, trackEntry cfg c.trackStat p (c.trackStat.base + i * trackStride) = some e := by
  simp only [layoutFits, Bool.and_eq_true, decide_eq_true_eq] at hf
  obtain ⟨⟨_, l1, l2, l3, l4, l5, l6, l7, l8⟩, _⟩ := hf
  obtain ⟨_, e1⟩ := payU16_isSome hw hl (entry_row_fits hi h l1)
  obtain ⟨_, e2⟩ := payU32_isSome hw hl (entry_row_fits hi h l2)
  obtain ⟨_, e3⟩ := payF64_isSome hw hl (entry_row_fits hi h l3)
  obtain ⟨_, e4⟩ := payU32_isSome hw hl (entry_row_fits hi h l4)
  obtain ⟨_, e5⟩ := payU32_isSome hw hl (entry_row_fits hi h l5)
  obtain ⟨_, e6⟩ := payU32_isSome hw hl (entry_row_fits hi h l6)
  obtain ⟨_, e7⟩ := payU32_isSome hw hl (entry_row_fits hi h l7)
  obtain ⟨_, e8⟩ := payU32_isSome hw hl (entry_row_fits hi h l8)
  exact ⟨_, by simp only [trackEntry, payI16, payF32, e1, e2, e3, e4, e5, e6, e7, e8]; rfl⟩

theorem rangeEntry_isSome (cfg : Config) {c : Layout} (hf : layoutFits c = true) {n i : Nat} (hi : i < n)
    (h : c.range.base + n * rangeStride ≤ p.len) :
    ∃ e, rangeEntry cfg c.range p (c.range.base + i * rangeStride) = some e := by
  simp only [layoutFits, Bool.and_eq_true, decide_eq_true_eq] at hf
  obtain ⟨_, l1, l2, l3, l4, l5, l6, l7, l8, l9⟩ := hf
  obtain ⟨_, e1⟩ := payU16_isSome hw hl (entry_row_fits hi h l1)
  obtain ⟨_, e2⟩ := payF64_isSome hw hl (entry_row_fits hi h l2)
  obtain ⟨_, e3⟩ := payU32_isSome hw hl (entry_row_fits hi h l3)
  obtain ⟨_, e4⟩ := payF64_isSome hw hl (entry_row_fits hi h l4)
  obtain ⟨_, e5⟩ := payU32_isSome hw hl (entry_row_fits hi h l5)
  obtain ⟨_, e6⟩ := payU32_isSome hw hl (entry_row_fits hi h l6)
  obtain ⟨_, e7⟩ := payU32_isSome hw hl (entry_row_fits hi h l7)
  obtain ⟨_, e8⟩ := payU32_isSome hw hl (entry_row_fits hi h l8)
  obtain ⟨_, e9⟩ := payU32_isSome hw hl (entry_row_fits hi h l9)
  exact ⟨_, by simp only [rangeEntry, payF32, e1, e2, e3, e4, e5, e6, e7, e8, e9]; rfl⟩

theorem decSatXyz_isSome {c : Layout} (hf : layoutFits c = true) : ∃ a, decSatXyz c.satXyz p = some a := by
  unfold decSatXyz
  split
  next => exact ⟨_, rfl⟩
  next h =>
    have hm : ∀ x, x ∈ _ → x ≤ p.len := fun x hx => (le_maxEnd_of_mem hx).trans (Nat.not_lt.1 h)
    obtain ⟨n, e⟩ := payU32_isSome hw hl (o := c.satXyz.numSatellites) (hm _ (by simp))
    simp only [e]
    split
    next => exact ⟨_, rfl⟩
    next hb =>
      obtain ⟨es, g⟩ := readGroup_isSome _ _ fun i hi => satEntry_isSome hw hl hf hi (Nat.not_lt.1 hb)
      exact ⟨_, by rw [g]; rfl⟩

theorem readTrackFixed_isSome (l : TrackStatLayout) (h : trackStatMinLen l ≤ p.len) :
    ∃ r, readTrackFixed l p = some r := by
  have hm : ∀ x, x ∈ _ → x ≤ p.len := fun x hx => (le_maxEnd_of_mem hx).trans h
  obtain ⟨_, e1⟩ := payUnsigned_isSome hw hl (f := l.solutionStatus) (hm _ (by simp))
  obtain ⟨_, e2⟩ := payUnsigned_isSome hw hl (f := l.positionType) (hm _ (by simp))
  obtain ⟨_, e3⟩ := payU32_isSome hw hl (o := l.elevationCutoff) (hm _ (by simp))
  obtain ⟨_, e4⟩ := payU32_isSome hw hl (o := l.numChannels) (hm _ (by simp))
  exact ⟨_, by simp only [readTrackFixed, payF32, payI32, e1, e2, e3, e4]; rfl⟩

theorem decTrackStat_isSome (cfg : Config) {c : Layout} (hf : layoutFits c = true) :
    ∃ a, decTrackStat cfg c.trackStat p = some a := by
  unfold decTrackStat
  split
  next => exact ⟨_, rfl⟩
  next h =>
    obtain ⟨r, e⟩ := readTrackFixed_isSome hw hl c.trackStat (Nat.not_lt.1 h)
    simp only [e]
    split
    next => exact ⟨_, rfl⟩
    next hb =>
      have hb' : c.trackStat.base + r.numChannels.toNat * trackStride ≤ p.len := by
        unfold trackStride at *; omega
      obtain ⟨es, g⟩ := readGroup_isSome _ _ fun i hi => trackEntry_isSome hw hl cfg hf hi hb'
      exact ⟨_, by rw [g]; rfl⟩

theorem decRange_isSome (cfg : Config) {c : Layout} (hf : layoutFits c = true) :
    ∃ a, decRange cfg c.range p = some a := by
  unfold decRange
  split
  next => exact ⟨_, rfl⟩
  next h =>
    have hm : ∀ x, x ∈ _ → x ≤ p.len := fun x hx => (le_maxEnd_of_mem hx).trans (Nat.not_lt.1 h)
    obtain ⟨n, e⟩ := payU16_isSome hw hl (o := c.range.numObservations) (hm _ (by simp))
    simp only [e]
    split
    next => exact ⟨_, rfl⟩
    next hb =>
      obtain ⟨es, g⟩ := readGroup_isSome _ _ fun i hi => rangeEntry_isSome hw hl cfg hf hi (Nat.not_lt.1 hb)
      exact ⟨_, by rw [g]; rfl⟩

end

/-! ## DISPATCH -/

/-- The three ways DISPATCH ends a frame (R201, R204 and R251, R252), whatever free values it takes. -/
inductive FrameEnded (s t : State) : Prop
  | dropped (k : Nat) (h : t = discarded .unknownMessageId (s.drew k))
  | failed (e : DecodeError) (k : Nat) (h : t = raised e (s.drew k))
  | delivered (f : DecodedFrame) (k : Nat) (h : t = emitted f (s.drew k))

/-- Free values taken after the end of a frame change the draw counter only. -/
theorem FrameEnded.drew {s t : State} (h : FrameEnded s t) (n : Nat) : FrameEnded s (t.drew n) := by
  obtain ⟨_, rfl⟩ | ⟨e, _, rfl⟩ | ⟨f, _, rfl⟩ := h
  · exact .dropped _ (by simp only [discarded_drew, drew_drew]; rfl)
  · exact .failed e _ (by simp only [raised_drew, drew_drew]; rfl)
  · exact .delivered f _ (by simp only [emitted_drew, drew_drew]; rfl)

/-- A `dispatchWith` that answers ends the frame. -/
theorem dispatchWith_ends {isId : Config → Word16 → Bool}
    {dec : State → Payload → Option (Except DecodeError Record)} {draws : Nat} {ok : Bool} {s t : State}
    (h : dispatchWith isId dec draws ok s = .next t) : FrameEnded s t := by
  obtain ⟨_, _, k, ⟨e, _, ht⟩ | ⟨r, _, ht⟩⟩ := dispatchWith_eq_next h
  · exact .failed e k ht
  · exact .delivered _ k ht

theorem asRecord_isSome {α : Type} (mk : α → Record) {a : Answer α} (h : ∃ x, a = some x) :
    ∃ y, asRecord mk a = some y := by
  obtain ⟨e | r, rfl⟩ := h
  · exact ⟨_, rfl⟩
  · exact ⟨_, rfl⟩

/-- DISPATCH of a whole frame that the policy lets through answers (R200). -/
theorem dispatchWith_isNext {isId : Config → Word16 → Bool}
    {dec : State → Payload → Option (Except DecodeError Record)} {draws : Nat} {ok : Bool} {s : State}
    {h : HeaderRecord} (hr : headerRecord s.hdr = some h) (hp : passesPolicy s.cfg ok = true)
    (hi : isId s.cfg h.messageId = true) (hd : ∃ x, dec s (s.payload h) = some x) :
    ∃ t, dispatchWith isId dec draws ok s = .next t := by
  rw [dispatchWith_written hr]
  obtain ⟨e | r, hx⟩ := hd <;> simp [hi, hp, hx]

theorem execDispatchUnknown_ends {ok : Bool} {s t : State} (h : execDispatchUnknown ok s = .next t) :
    FrameEnded s t := by
  unfold execDispatchUnknown at h
  obtain ⟨u, hu, rfl⟩ := readRegister_eq_next.1 h
  split at hu
  next => injection hu with hu; subst hu; exact .dropped _ (discarded_drew _ _ _)
  next => simp at hu

/-- DISPATCH, where it answers, ends the frame in one of its three ways. -/
theorem dispatch_ends {id : Word16} {ok : Bool} {s t : State} (h : dispatch id ok s = .next t) : FrameEnded s t := by
  unfold dispatch at h
  split_ifs at h
  · exact dispatchWith_ends h
  · exact dispatchWith_ends h
  · exact dispatchWith_ends h
  · exact dispatchWith_ends h
  · exact dispatchWith_ends h
  · exact execDispatchUnknown_ends h

/-- DISPATCH of a whole frame that the policy lets through answers, whatever its id (R200). -/
theorem dispatch_isNext {ok : Bool} {s : State} {h : HeaderRecord} (hf : s.holdsFrame h)
    (hp : passesPolicy s.cfg ok = true) (hl : layoutFits s.cfg.layout = true) :
    ∃ t, dispatch h.messageId ok s = .next t := by
  obtain ⟨hw, hr, hn⟩ := hf
  unfold dispatch
  split_ifs with h1 h2 h3 h4 h5
  · exact dispatchWith_isNext hr hp (by simp [h1]) (asRecord_isSome _ (decBestPos_isSome hw hn _ _))
  · exact dispatchWith_isNext hr hp (by simp [h2]) (asRecord_isSome _ (decBestXyz_isSome hw hn _))
  · exact dispatchWith_isNext hr hp (by simp [h3]) (asRecord_isSome _ (decSatXyz_isSome hw hn hl))
  · exact dispatchWith_isNext hr hp (by simp [h4]) (asRecord_isSome _ (decTrackStat_isSome hw hn _ hl))
  · exact dispatchWith_isNext hr hp (by simp [h5]) (asRecord_isSome _ (decRange_isSome hw hn _ hl))
  · refine ⟨discarded .unknownMessageId s, ?_⟩
    have hid : s.hdr.messageId = some h.messageId := by rw [headerRecord_eq_some.1 hr]
    simp [execDispatchUnknown, hid, isUnknownId, h1, h2, h3, h4, h5, hp, Machine.discard]

/-! ## FRAME_END -/

/-- What FRAME_END can do (42 R180): a discard under Strict, or DISPATCH. -/
theorem execFrameEnd_eq_next {s t : State} (h : execFrameEnd s = .next t) :
    t = discarded .crcMismatch s ∨ FrameEnded s t := by
  unfold execFrameEnd at h
  split at h
  next => simp at h
  next =>
    simp only at h
    split at h
    next =>
      obtain ⟨u, hu, rfl⟩ := readRegister_eq_next.1 h
      exact .inr ((dispatch_ends hu).drew _)
    next => injection h with h; exact .inl h.symm

/-- FRAME_END of a whole frame with its four CRC bytes answers (42 R180). -/
theorem execFrameEnd_isNext {s : State} {h : HeaderRecord} (hf : s.holdsFrame h) (hc : s.crcb.length = 4)
    (hl : layoutFits s.cfg.layout = true) : ∃ t, execFrameEnd s = .next t := by
  obtain ⟨b0, b1, b2, b3, hb⟩ : ∃ b0 b1 b2 b3, s.crcb = [b0, b1, b2, b3] := by
    rcases e : s.crcb with _ | ⟨b0, _ | ⟨b1, _ | ⟨b2, _ | ⟨b3, _ | ⟨b4, l⟩⟩⟩⟩⟩ <;> simp_all
  have hid : s.hdr.messageId = some h.messageId := by rw [headerRecord_eq_some.1 hf.2.1]
  simp only [execFrameEnd, hb, wireCrc, hid, readRegister_some]
  split_ifs with hp
  · exact dispatch_isNext hf hp hl
  · exact ⟨_, rfl⟩

end Sys2Proof.Machine
end

