-- ==== Sys2Proof/Laws/Bytes.lean ====
section
/-! SUPPORT. What each byte operation can do, said once: an inversion per operation (41_sync_header, 42_payload_validate),
and the header bank that a buffer determines, after an append. -/

namespace Sys2Proof.Machine

/-! ## Sync and header bytes -/

theorem execSyncMatch_eq_next {v : Byte} {s t : State} (h : execSyncMatch v s = .next t) :
    ∃ (p : Fin 3) (hp : p.val < 2), s.phase = .sync p ∧ v = syncByte s.cfg p ∧ s.buf.length = p.val ∧
      t = (s.push v).setPhase (.sync ⟨p.val + 1, by omega⟩) := by
  unfold execSyncMatch at h
  split at h
  next p hph =>
    split_ifs at h with h1 h2
    obtain ⟨u, hu, hk⟩ := andThen_eq_next.1 h
    obtain ⟨⟨ho, _⟩, rfl⟩ := memWrite_eq_next.1 hu
    injection hk with hk
    exact ⟨p, h1, hph, h2, ho.symm, hk.symm⟩
  all_goals simp at h

theorem execSyncComplete_eq_next {v : Byte} {s t : State} (h : execSyncComplete v s = .next t) :
    s.phase = .sync 2 ∧ v = s.cfg.sync2 ∧ s.buf.length = 2 ∧ t = (s.push v).setPhase (.header ⟨3, by omega⟩) := by
  unfold execSyncComplete at h
  split at h
  next p hph =>
    split_ifs at h with h1
    obtain ⟨u, hu, hk⟩ := andThen_eq_next.1 h
    obtain ⟨⟨ho, _⟩, rfl⟩ := memWrite_eq_next.1 hu
    injection hk with hk
    have hp : p = 2 := Fin.ext h1.1
    subst hp
    exact ⟨hph, h1.2, ho.symm, hk.symm⟩
  all_goals simp at h

theorem execSyncMismatch_eq_next {v : Byte} {s t : State} (h : execSyncMismatch v s = .next t) :
    t = discarded .syncLost s := by
  unfold execSyncMismatch at h
  split at h
  next => split_ifs at h; injection h with h; exact h.symm
  all_goals simp at h

theorem execHdrlenOk_eq_next {v : Byte} {s t : State} (h : execHdrlenOk v s = .next t) :
    v = 28#8 ∧ s.phase = .header ⟨3, by omega⟩ ∧ s.buf.length = 3 ∧
      t = { s.push v with hdr := { s.hdr with headerLength := some v }, phase := .header ⟨4, by omega⟩ } := by
  unfold execHdrlenOk at h
  split at h
  next p hph =>
    split_ifs at h with h1
    obtain ⟨u, hu, hk⟩ := andThen_eq_next.1 h
    obtain ⟨⟨ho, _⟩, rfl⟩ := memWrite_eq_next.1 hu
    obtain ⟨w, hw, hk⟩ := andThen_eq_next.1 hk
    obtain ⟨x, hx, rfl⟩ := writeHeaderRegister_eq_next.1 hw
    injection hk with hk
    injection hx with hx
    subst hx
    exact ⟨h1.2, by rw [hph]; congr 1; exact Subtype.ext h1.1, ho.symm, hk.symm⟩
  all_goals simp at h

theorem execHdrlenBad_eq_next {v : Byte} {s t : State} (h : execHdrlenBad v s = .next t) :
    t = discarded .invalidHeaderLength s := by
  unfold execHdrlenBad at h
  split at h
  next => split_ifs at h; injection h with h; exact h.symm
  all_goals simp at h

/-- The byte at offset 9 writes the message length (R148). -/
theorem headerAfter_messageLength {v : Byte} {m : Memory} {old new : Header} (h : headerAfter 9 v m old = some new) :
    ∃ len, new.messageLength = some len := by
  obtain ⟨len, _, rfl⟩ := Option.map_eq_some_iff.1 h; exact ⟨len, rfl⟩

/-- HDR_BYTE stores the byte and writes the register it completes; at offset 9 the length decides (R146-R152). -/
theorem execHdrByte_eq_next {v : Byte} {s t : State} (h : execHdrByte v s = .next t) :
    ∃ (p : HeaderPos) (hp : 4 ≤ p.val ∧ p.val ≤ 26) (new : Header), s.phase = .header p ∧ s.buf.length = p.val ∧
      headerAfter p.val v (Memory.append s.buf v) s.hdr = some new ∧
      ((t = { s.push v with hdr := new, phase := .header ⟨p.val + 1, by omega⟩ } ∧
          (p.val = 9 → ∃ len, new.messageLength = some len ∧ lengthError s.cfg len = none)) ∨
        ∃ c, t = discarded c s ∧ (c = .zeroLengthMessage ∨ c = .payloadTooLong)) := by
  unfold execHdrByte at h
  split at h
  next p hph =>
    split at h
    next h1 =>
      obtain ⟨u, hu, hk⟩ := andThen_eq_next.1 h
      obtain ⟨⟨ho, _⟩, rfl⟩ := memWrite_eq_next.1 hu
      obtain ⟨w, hw, hk⟩ := andThen_eq_next.1 hk
      obtain ⟨x, hx, rfl⟩ := writeHeaderRegister_eq_next.1 hw
      refine ⟨p, h1, x, hph, ho.symm, hx, ?_⟩
      split at hk
      next h9 =>
        obtain ⟨len, hl⟩ : ∃ len, x.messageLength = some len := headerAfter_messageLength (by rw [← h9]; exact hx)
        obtain ⟨c, hc, rfl⟩ | ⟨hc, rfl⟩ := (checkLength_eq_next hl).1 hk
        · refine .inr ⟨c, rfl, ?_⟩
          unfold lengthError at hc
          split_ifs at hc
          · injection hc with hc; exact .inl hc.symm
          · injection hc with hc; exact .inr hc.symm
        · exact .inl ⟨rfl, fun _ => ⟨len, hl, hc⟩⟩
      next h9 =>
        injection hk with hk
        exact .inl ⟨hk.symm, fun h => absurd h h9⟩
    next => simp at h
  all_goals simp at h

/-- HDR_LAST stores the byte and starts a payload of as many bytes as the message length reads (R153). -/
theorem execHdrLast_eq_next {v : Byte} {s t : State} (h : execHdrLast v s = .next t) :
    ∃ (len : Word16) (hl : 1 ≤ len.toNat) (new : Header), s.phase = .header ⟨27, by omega⟩ ∧ s.buf.length = 27 ∧
      headerAfter 27 v (Memory.append s.buf v) s.hdr = some new ∧ registerValue new.messageLength 8 s.draw = len ∧
      t = { s.push v with hdr := new, phase := .payload ⟨len.toNat, hl, by omega⟩,
                          draw := s.draw + freeDraws new.messageLength } := by
  unfold execHdrLast at h
  split at h
  next p hph =>
    split_ifs at h with h1
    obtain ⟨u, hu, hk⟩ := andThen_eq_next.1 h
    obtain ⟨⟨ho, _⟩, rfl⟩ := memWrite_eq_next.1 hu
    obtain ⟨w, hw, hk⟩ := andThen_eq_next.1 hk
    obtain ⟨x, hx, rfl⟩ := writeHeaderRegister_eq_next.1 hw
    unfold startPayload at hk
    obtain ⟨y, hy, rfl⟩ := readRegister_eq_next.1 hk
    split_ifs at hy with h2
    injection hy with hy
    subst hy
    exact ⟨_, h2, x, by rw [hph]; congr 1; exact Subtype.ext h1, ho.symm, hx, rfl, rfl⟩
  all_goals simp at h

/-! ## Payload and CRC bytes -/

/-- A payload byte is appended, and only where the message length, as read, puts it (R171). -/
theorem storePayload_eq_next {r : Nat} {v : Byte} {s t : State} (h : storePayload r v s = .next t) :
    s.buf.length + r = 28 + (registerValue s.hdr.messageLength 8 s.draw).toNat ∧
      t = (s.push v).drew (freeDraws s.hdr.messageLength) := by
  unfold storePayload at h
  obtain ⟨u, hu, rfl⟩ := readRegister_eq_next.1 h
  split_ifs at hu with h1
  obtain ⟨⟨ho, _⟩, rfl⟩ := memWrite_eq_next.1 hu
  exact ⟨by omega, rfl⟩

theorem execPayloadByte_eq_next {v : Byte} {s t : State} (h : execPayloadByte v s = .next t) :
    ∃ (r : Remaining) (hr : 2 ≤ r.val), s.phase = .payload r ∧
      s.buf.length + r.val = 28 + (registerValue s.hdr.messageLength 8 s.draw).toNat ∧
      t = { s.push v with phase := .payload ⟨r.val - 1, by omega, by omega⟩,
                          draw := s.draw + freeDraws s.hdr.messageLength } := by
  unfold execPayloadByte at h
  split at h
  next r hph =>
    split_ifs at h with h1
    obtain ⟨u, hu, hk⟩ := andThen_eq_next.1 h
    obtain ⟨ho, rfl⟩ := storePayload_eq_next hu
    injection hk with hk
    exact ⟨r, h1, hph, ho, hk.symm⟩
  all_goals simp at h

theorem execPayloadLast_eq_next {v : Byte} {s t : State} (h : execPayloadLast v s = .next t) :
    s.phase = .payload ⟨1, by omega⟩ ∧
      s.buf.length + 1 = 28 + (registerValue s.hdr.messageLength 8 s.draw).toNat ∧
      t = { s.push v with phase := .crc 0, draw := s.draw + freeDraws s.hdr.messageLength } := by
  unfold execPayloadLast at h
  split at h
  next r hph =>
    split_ifs at h with h1
    obtain ⟨u, hu, hk⟩ := andThen_eq_next.1 h
    obtain ⟨ho, rfl⟩ := storePayload_eq_next hu
    injection hk with hk
    exact ⟨by rw [hph]; congr 1; exact Subtype.ext h1, ho, hk.symm⟩
  all_goals simp at h

theorem execCrcByte_eq_next {v : Byte} {s t : State} (h : execCrcByte v s = .next t) :
    ∃ (p : Fin 4) (hp : p.val < 3), s.phase = .crc p ∧
      t = { s with crcb := s.crcb ++ [v], phase := .crc ⟨p.val + 1, by omega⟩ } := by
  unfold execCrcByte at h
  split at h
  next p hph =>
    split_ifs at h with h1
    injection h with h
    exact ⟨p, h1, hph, h.symm⟩
  all_goals simp at h

/-- CRC_LAST ends the frame: a discard under Strict, or one of DISPATCH's three ways (R175, R180). -/
theorem execCrcLast_eq_next {v : Byte} {s t : State} (h : execCrcLast v s = .next t) :
    t = discarded .crcMismatch s ∨ FrameEnded s t := by
  unfold execCrcLast at h
  split at h
  next =>
    split_ifs at h
    rcases execFrameEnd_eq_next h with rfl | ⟨k, rfl⟩ | ⟨e, k, rfl⟩ | ⟨f, k, rfl⟩
    · exact .inl rfl
    · exact .inr (.dropped k rfl)
    · exact .inr (.failed e k rfl)
    · exact .inr (.delivered f k rfl)
  all_goals simp at h

/-! ## The header bank that a buffer determines -/

theorem headerOf_nil : headerOf [] = Header.unwritten := rfl

/-- Past the header, an append does not change it. -/
theorem headerOf_append_payload {m : Memory} (v : Byte) (h : 28 ≤ m.length) :
    headerOf (Memory.append m v) = headerOf m := by
  have r : ∀ o, o < 28 → Memory.read (Memory.append m v) o = Memory.read m o := fun o ho =>
    memory_read_append_other m v (by omega)
  simp [headerOf, Memory.read16, Memory.read32, r]

/-- Within the sync bytes, no register is written. -/
theorem headerOf_append_sync {m : Memory} (v : Byte) (hw : Memory.wf m = true) (h : m.length ≤ 2) :
    headerOf (Memory.append m v) = Header.unwritten := by
  have r : ∀ o, 3 ≤ o → Memory.read (Memory.append m v) o = none := fun o ho =>
    memory_read_none (memory_append_wf v hw) (by simp; omega)
  simp [headerOf, Memory.read16, Memory.read32, r, Header.unwritten]

theorem headerOf_sync {m : Memory} (hw : Memory.wf m = true) (h : m.length ≤ 3) : headerOf m = Header.unwritten := by
  have r : ∀ o, 3 ≤ o → Memory.read m o = none := fun o ho => memory_read_none hw (by omega)
  simp [headerOf, Memory.read16, Memory.read32, r, Header.unwritten]

/-- In the header, an append writes exactly the register that the byte completes (R24, R147, R148). -/
theorem headerOf_append_header {m : Memory} (v : Byte) (hw : Memory.wf m = true) {p : Nat} (hl : m.length = p)
    (h3 : 3 ≤ p) (h27 : p ≤ 27) :
    headerAfter p v (Memory.append m v) (headerOf m) = some (headerOf (Memory.append m v)) := by
  have ro : ∀ o, o ≠ p → Memory.read (Memory.append m v) o = Memory.read m o := fun o ho =>
    memory_read_append_other m v (by omega)
  have rs : Memory.read (Memory.append m v) p = some v := by rw [← hl]; exact memory_read_append_self hw v
  have rn : ∀ o, p ≤ o → Memory.read m o = none := fun o ho => memory_read_none hw (by omega)
  have rd : ∀ o, o < p → ∃ b, Memory.read m o = some b := fun o ho => memory_read_isSome hw (by omega)
  interval_cases p <;> simp only [headerAfter, headerOf, Memory.read16, Memory.read32] <;>
    simp (disch := omega) only [ro, rs, rn, Nat.reduceAdd, Option.bind_eq_bind, Option.bind_none, Option.bind_some,
      Option.pure_def, Option.bind_fun_none]
  · obtain ⟨b, e⟩ := rd 4 (by omega); simp [e]
  · obtain ⟨b, e⟩ := rd 8 (by omega); simp [e]
  · obtain ⟨b, e⟩ := rd 10 (by omega); simp [e]
  · obtain ⟨b, e⟩ := rd 14 (by omega); simp [e]
  · obtain ⟨b0, e0⟩ := rd 16 (by omega); obtain ⟨b1, e1⟩ := rd 17 (by omega); obtain ⟨b2, e2⟩ := rd 18 (by omega)
    simp [e0, e1, e2]
  · obtain ⟨b0, e0⟩ := rd 20 (by omega); obtain ⟨b1, e1⟩ := rd 21 (by omega); obtain ⟨b2, e2⟩ := rd 22 (by omega)
    simp [e0, e1, e2]
  · obtain ⟨b, e⟩ := rd 24 (by omega); simp [e]
  · obtain ⟨b, e⟩ := rd 26 (by omega); simp [e]

end Sys2Proof.Machine
end

