-- ==== Sys2Proof/Laws/PerInstr.lean ====
section
/-! SUPPORT. Statements made per constructor of `Instr`: the family EncodedWord of LAWS.json. -/

namespace Sys2Proof.Laws.EncodedWord

/-- The word an operation encodes to is its event word, whose 16-bit form the decoder of fetched words reads as that
word's event (30_encoding R100; log 16), or its message id (R102). -/
def Statement (i : Instr) : Prop :=
  ∀ (c : Config) (w : Word16), encode c i = some w →
    (∃ e : EventWord, encodeEvent i = some e ∧ w = e.setWidth 16 ∧ decodeWord16 w = .ok (decodeEvent e)) ∨
      encodeMessageId c i = some w

/-- An event word in 16 bits decodes to what the event word spells. -/
theorem decodeWord16_setWidth (e : EventWord) : decodeWord16 (e.setWidth 16) = .ok (decodeEvent e) := by
  have h : (e.setWidth 16 : Word16).extractLsb' 10 6 = 0#6 := by revert e; decide +kernel
  have h' : (e.setWidth 16 : Word16).extractLsb' 0 10 = e := by revert e; decide +kernel
  simp [decodeWord16, h, h']

theorem of_event {i : Instr} {e : EventWord} (h : encodeEvent i = some e) : Statement i := by
  intro c w hw
  simp only [encode, h, Option.some.injEq] at hw
  exact .inl ⟨e, h, hw.symm, by rw [← hw]; exact decodeWord16_setWidth e⟩

theorem of_no_event {i : Instr} (h : encodeEvent i = none) : Statement i := by
  intro c w hw
  simp only [encode, h] at hw
  exact .inr hw

theorem decodeNext : Statement .decodeNext := of_no_event rfl
theorem read : Statement .read := of_no_event rfl
theorem evByte (v : Byte) : Statement (.evByte v) := of_event rfl
theorem evTimeout (v : Byte) : Statement (.evTimeout v) := of_event rfl
theorem evFail (v : Byte) : Statement (.evFail v) := of_event rfl
theorem evReserved (v : Byte) : Statement (.evReserved v) := of_event rfl
theorem syncMatch (v : Byte) : Statement (.syncMatch v) := of_event rfl
theorem syncComplete (v : Byte) : Statement (.syncComplete v) := of_event rfl
theorem syncMismatch (v : Byte) : Statement (.syncMismatch v) := of_event rfl
theorem hdrlenOk (v : Byte) : Statement (.hdrlenOk v) := of_event rfl
theorem hdrlenBad (v : Byte) : Statement (.hdrlenBad v) := of_event rfl
theorem hdrByte (v : Byte) : Statement (.hdrByte v) := of_event rfl
theorem hdrLast (v : Byte) : Statement (.hdrLast v) := of_event rfl
theorem payloadByte (v : Byte) : Statement (.payloadByte v) := of_event rfl
theorem payloadLast (v : Byte) : Statement (.payloadLast v) := of_event rfl
theorem crcByte (v : Byte) : Statement (.crcByte v) := of_event rfl
theorem crcLast (v : Byte) : Statement (.crcLast v) := of_event rfl
theorem frameEnd : Statement .frameEnd := of_no_event rfl
theorem dispatchBestpos (crcOk : Bool) : Statement (.dispatchBestpos crcOk) := of_no_event rfl
theorem dispatchRange (crcOk : Bool) : Statement (.dispatchRange crcOk) := of_no_event rfl
theorem dispatchTrackstat (crcOk : Bool) : Statement (.dispatchTrackstat crcOk) := of_no_event rfl
theorem dispatchBestxyz (crcOk : Bool) : Statement (.dispatchBestxyz crcOk) := of_no_event rfl
theorem dispatchSatxyz (crcOk : Bool) : Statement (.dispatchSatxyz crcOk) := of_no_event rfl
theorem dispatchUnknown (crcOk : Bool) : Statement (.dispatchUnknown crcOk) := of_no_event rfl
theorem unpack (w : Word32) (table : BitTable) : Statement (.unpack w table) := of_no_event rfl
theorem crc32 (bytes : List Byte) : Statement (.crc32 bytes) := of_no_event rfl
theorem tableValue (x : Byte) : Statement (.tableValue x) := of_no_event rfl
theorem bswap32 (v : Word32) : Statement (.bswap32 v) := of_no_event rfl
theorem square64 (v : Word32) : Statement (.square64 v) := of_no_event rfl

end Sys2Proof.Laws.EncodedWord
end

