-- ==== Sys2Proof/Laws/Steps.lean ====
section
/-! SUPPORT. What a byte and a step of the machine can do, said once (44_reader R263, R264, R276). -/

namespace Sys2Proof.Machine

/-- The four ways a byte is taken: stored in the buffer, kept as a CRC byte, dropped with its frame, or the last byte of
a frame that DISPATCH ends. -/
inductive ByteTaken (v : Byte) (s t : State) : Prop
  | stored (new : Header) (ph : Phase) (k : Nat) (h : t = { s.push v with hdr := new, phase := ph, draw := k })
  | crc (ph : Phase) (h : t = { s with crcb := s.crcb ++ [v], phase := ph })
  | dropped (c : EventCode) (hc : c ≠ .none) (h : t = discarded c s)
  | ended (h : FrameEnded s t)

theorem byteStep_taken {v : Byte} {s t : State} (h : byteStep v s = .next t) : ByteTaken v s t := by
  unfold byteStep at h
  split at h
  · split_ifs at h
    · obtain ⟨_, _, _, rfl⟩ := execSyncComplete_eq_next h; exact .stored s.hdr _ _ rfl
    · obtain ⟨_, _, _, _, _, rfl⟩ := execSyncMatch_eq_next h; exact .stored s.hdr _ _ rfl
    · exact .dropped _ (by simp) (execSyncMismatch_eq_next h)
  · split_ifs at h
    · obtain ⟨_, _, _, rfl⟩ := execHdrlenOk_eq_next h; exact .stored _ _ _ rfl
    · exact .dropped _ (by simp) (execHdrlenBad_eq_next h)
    · obtain ⟨_, _, _, _, _, _, _, rfl⟩ := execHdrLast_eq_next h; exact .stored _ _ _ rfl
    · obtain ⟨_, _, _, _, _, _, ⟨rfl, _⟩ | ⟨c, rfl, hc⟩⟩ := execHdrByte_eq_next h
      · exact .stored _ _ _ rfl
      · exact .dropped c (by rcases hc with rfl | rfl <;> simp) rfl
  · split_ifs at h
    · obtain ⟨_, _, rfl⟩ := execPayloadLast_eq_next h; exact .stored s.hdr _ _ rfl
    · obtain ⟨_, _, _, _, rfl⟩ := execPayloadByte_eq_next h; exact .stored s.hdr _ _ rfl
  · split_ifs at h
    · rcases execCrcLast_eq_next h with h | h
      · exact .dropped _ (by simp) h
      · exact .ended h
    · obtain ⟨_, _, _, rfl⟩ := execCrcByte_eq_next h; exact .crc _ rfl

/-- What a READ in a call can do (R263): end the call at the ceiling, or what the answer says on the counted request. -/
inductive ReadTaken (s t : State) : Prop
  | ceiling (hn : s.nRead = s.cfg.maxBytesPerCall) (h : t = s.endCall .noFrameYet)
  | byte (hn : s.nRead ≠ s.cfg.maxBytesPerCall) (v : Byte) (h : byteStep v (request s).2 = .next t)
  | timeout (hn : s.nRead ≠ s.cfg.maxBytesPerCall) (h : t = (request s).2)
  | fail (hn : s.nRead ≠ s.cfg.maxBytesPerCall) (h : t = (request s).2.endCall (.error .transportError))

theorem execRead_taken {s t : State} (h : execRead s = .next t) : s.callActive = true ∧ ReadTaken s t := by
  unfold execRead at h
  split_ifs at h with hc hn
  · injection h with h; exact ⟨hc, .ceiling hn h.symm⟩
  · refine ⟨hc, ?_⟩
    unfold runEvent at h
    split_ifs at h
    · exact .byte hn _ h
    · injection h with h; exact .timeout hn h.symm
    · injection h with h; exact .fail hn h.symm
    · simp [execEvReserved] at h

/-- What a step can do (R262, R263, R314): hold the state, start a call, or READ. -/
inductive StepTaken (s t : State) : Prop
  | idle (hc : s.callActive = false) (h : t = s)
  | call (hc : s.callActive = false) (rest : List HostCall)
      (h : t = { s with host := rest, callActive := true, nRead := 0 })
  | read (hc : s.callActive = true) (h : ReadTaken s t)

/-- A fetched READ, run, is READ (R263). -/
theorem fetchRead_run {s : State} (hc : s.callActive = true) :
    (match fetchRead s with
      | .run i t => exec i t
      | .idle => .next s
      | .refuse r => .refused r) = execRead s := by
  unfold fetchRead
  rw [execRead_active hc]
  split_ifs with h
  · simp [exec, execRead_active hc, h]
  · exact (runEvent_eq_exec _ _).symm

/-- A step, with the fetch unfolded: the host's call if it makes one, else the active call's READ, else nothing. -/
theorem step_eq (s : State) : step s =
    if idsDistinct s.cfg then
      match s.host with
      | .immediate :: rest => execDecodeNext { s with host := rest }
      | .serialized :: rest => if s.callActive then execRead s else execDecodeNext { s with host := rest }
      | [] => if s.callActive then execRead s else .next s
    else .refused .equalMessageIds := by
  unfold step fetch
  by_cases hi : idsDistinct s.cfg = true
  · rw [if_pos hi, if_pos hi]
    by_cases hc : s.callActive = true
    · have := fetchRead_run hc
      rcases s.host with _ | ⟨_ | _, rest⟩
      · simp only [fetchNoCall, hc, if_true]; exact this
      · simp only [hc, if_true]; exact this
      · rfl
    · simp only [Bool.not_eq_true] at hc
      rcases s.host with _ | ⟨_ | _, rest⟩ <;> simp [fetchNoCall, hc] <;> rfl
  · simp [hi]

theorem step_taken {s t : State} (h : step s = .next t) : idsDistinct s.cfg = true ∧ StepTaken s t := by
  by_cases hi : idsDistinct s.cfg = true
  · refine ⟨hi, ?_⟩
    unfold step fetch at h
    rw [if_pos hi] at h
    by_cases hc : s.callActive = true
    · refine .read hc (execRead_taken ?_).2
      rcases hh : s.host with _ | ⟨_ | _, rest⟩
      · simp only [hh, fetchNoCall, hc, if_true] at h; rw [← fetchRead_run hc]; exact h
      · simp only [hh, hc, if_true] at h; rw [← fetchRead_run hc]; exact h
      · simp [hh, exec, execDecodeNext, hc] at h
    · simp only [Bool.not_eq_true] at hc
      rcases hh : s.host with _ | ⟨_ | _, rest⟩ <;>
        simp only [hh, fetchNoCall, hc, exec, execDecodeNext, Bool.false_eq_true, if_false] at h <;> injection h with h
      · exact .idle hc h.symm
      · exact .call hc rest h.symm
      · exact .call hc rest h.symm
  · simp [step, fetch, hi] at h

end Sys2Proof.Machine
end

