-- ==== Sys2Proof/Tests/Slice0.lean ====
section
/-! SUPPORT. The model's own tests: ill-formed terms that WellFormed refuses, words written out from the spec's
encodings, single operations on the vectors of spec/95_test_vectors.md, and a witness for every statement that has
hypotheses. Expected values are the spec's, and the comment of each test names the vector or the rule. -/

namespace Sys2Proof.Machine

set_option Elab.async false

/-! ## Small states -/

/-- A call is active, in phase `ph`, with the candidate frame's bytes and CRC bytes given. -/
def midFrame (ph : Phase) (bytes crc : List Byte) : State :=
  { State.reset with phase := ph, buf := memoryOf bytes, hdr := headerOf (memoryOf bytes), crcb := crc, callActive := true }

/-- The same with another configuration. -/
def State.withConfig (s : State) (c : Config) : State := { s with cfg := c }

/-- The default configuration, Lenient. -/
def lenientConfig : Config := { defaultConfig with crcPolicy := .lenient }

/-- The default configuration with two equal message ids. -/
def equalIdsConfig : Config := { defaultConfig with msgidRange := 42#16 }

/-- The operation completes. -/
def completes (r : Result) : Bool := (nextState r).isSome

/-- What the operation leaves of a field of the state. -/
def after {α : Type} (r : Result) (f : State → α) : Option α := (nextState r).map f

/-- The error a decoder answers. -/
def errorOf {α : Type} : Answer α → Option DecodeError
  | some (.error e) => some e
  | _ => none

/-- The header template of 95_test_vectors with id `id` and length `len`, low bytes first. -/
def templateHeader (id0 id1 len0 len1 : Byte) : List Byte :=
  [0xAA, 0x44, 0x12, 0x1C, id0, id1, 0x00, 0x20, len0, len1, 0x00, 0x00, 0x00, 0xB4] ++
    [0xD0, 0x07, 0x00, 0x70, 0x99, 0x14, 0x00, 0x00, 0x00, 0x00, 0x00, 0x00, 0x34, 0x12]

/-- The header record of the template with this id, length, sequence and receiver status. -/
def templateRecord (id len seq : Word16) (status : Word32) : HeaderRecord :=
  ⟨28, id, 0, 0x20, len, seq, 0, 0xB4, 2000, 345600000, status, 0, 0x1234⟩

/-- `n` zero bytes. -/
def zeros (n : Nat) : List Byte := List.replicate n 0x00

/-- The 28 header bytes of program P1. -/
def p1Header : List Byte :=
    [0xAA, 0x44, 0x12, 0x1C, 0x2A, 0x00, 0x00, 0x20, 0x48, 0x00, 0x07, 0x00, 0x00, 0xB4, 0xD0, 0x07, 0x00, 0x70, 0x99, 0x14, 0x00, 0x00, 0x04, 0x00] ++
    [0x00, 0x00, 0x34, 0x12]

/-- The 72 payload bytes of program P1 (a BestPos). -/
def p1Payload : List Byte :=
    [0x00, 0x00, 0x00, 0x00, 0x10, 0x00, 0x00, 0x00, 0xDB, 0xFB, 0x54, 0x15, 0x1A, 0x88, 0x2F, 0xC0, 0x0D, 0xC6, 0x88, 0x44, 0xA1, 0xEF, 0x47, 0xC0] ++
    [0x00, 0x00, 0x00, 0x00, 0x00, 0x00, 0x90, 0x40, 0xF6, 0x28, 0x82, 0xC1, 0x3D, 0x00, 0x00, 0x00, 0x00, 0x00, 0x00, 0x3F, 0x00, 0x00, 0x80, 0x3E] ++
    [0x00, 0x00, 0xC0, 0x3F, 0x30, 0x00, 0x00, 0x00, 0x00, 0x00, 0x00, 0x00, 0x00, 0x00, 0x00, 0x00, 0x0C, 0x0A, 0x00, 0x00, 0x00, 0x00, 0x00, 0x00]

/-- The 148 payload bytes of program P3 (two satellites). -/
def p3Payload : List Byte :=
    [0x00, 0x00, 0x00, 0x00, 0x00, 0x00, 0x00, 0x00, 0x02, 0x00, 0x00, 0x00, 0x05, 0x00, 0x00, 0x00, 0x00, 0x00, 0x00, 0x00, 0xD0, 0x12, 0x63, 0x41] ++
    [0x00, 0x00, 0x00, 0x00, 0xD0, 0x12, 0x73, 0x41, 0x00, 0x00, 0x00, 0x00, 0x60, 0xE3, 0x46, 0xC1, 0x00, 0x00, 0x00, 0x00, 0x00, 0x00, 0xF8, 0x3F] ++
    [0x00, 0x00, 0x00, 0x00, 0x00, 0x00, 0x04, 0x40, 0x00, 0x00, 0x00, 0x00, 0x00, 0x00, 0x0C, 0x40, 0x00, 0x00, 0x00, 0x00, 0x00, 0x00, 0x00, 0x00] ++
    [0x00, 0x00, 0x00, 0x00, 0x00, 0x00, 0x00, 0x00, 0x11, 0x00, 0x00, 0x00, 0x00, 0x00, 0x00, 0x00, 0xD0, 0x12, 0x63, 0xC1, 0x00, 0x00, 0x00, 0x00] ++
    [0x00, 0x00, 0xE0, 0x3F, 0x00, 0x00, 0x00, 0x00, 0xD0, 0x12, 0x73, 0x41, 0x00, 0x00, 0x00, 0x00, 0x00, 0x00, 0xF8, 0xBF, 0x00, 0x00, 0x00, 0x00] ++
    [0x00, 0x00, 0x00, 0x00, 0x00, 0x00, 0x00, 0x00, 0x00, 0x00, 0x1D, 0x40, 0x00, 0x00, 0x00, 0x00, 0x00, 0x00, 0x00, 0x00, 0x00, 0x00, 0x00, 0x00] ++
    [0x00, 0x00, 0x00, 0x00]

/-- The 48 payload bytes of program P4's frame B (one observation). -/
def p4Payload : List Byte :=
    [0x01, 0x00, 0x00, 0x00, 0x0C, 0x00, 0x00, 0x00, 0x00, 0x00, 0x00, 0x00, 0xF4, 0x06, 0x74, 0x41, 0x00, 0x00, 0x00, 0x3E, 0x00, 0x00, 0x00, 0x00] ++
    [0xDE, 0x39, 0x9A, 0xC1, 0x00, 0x00, 0x00, 0x3C, 0x00, 0x50, 0x9A, 0xC4, 0x00, 0x00, 0x34, 0x42, 0x00, 0x00, 0x7A, 0x44, 0x04, 0x9C, 0x10, 0x08]

/-- The 28 header bytes of program P5. -/
def p5Header : List Byte :=
    [0xAA, 0x44, 0x12, 0x1C, 0x53, 0x00, 0x00, 0x20, 0x38, 0x00, 0x03, 0x00, 0x00, 0xB4, 0xD0, 0x07, 0x00, 0x70, 0x99, 0x14, 0x00, 0x00, 0x00, 0x00] ++
    [0x00, 0x00, 0x34, 0x12]

/-- The 56 payload bytes of program P5 (one channel). -/
def p5Payload : List Byte :=
    [0x00, 0x00, 0x00, 0x00, 0x10, 0x00, 0x00, 0x00, 0x00, 0x00, 0xA0, 0x40, 0x01, 0x00, 0x00, 0x00, 0xF9, 0xFF, 0x00, 0x00, 0xFF, 0xFF, 0xFF, 0xFF] ++
    [0x00, 0x00, 0x00, 0x00, 0x2A, 0x75, 0x75, 0x41, 0x00, 0x00, 0xFA, 0xC3, 0x00, 0x00, 0x28, 0x42, 0x00, 0x00, 0x48, 0x41, 0x00, 0x00, 0x40, 0x3F] ++
    [0x00, 0x00, 0x00, 0x00, 0x00, 0x00, 0x80, 0x3F]

/-- Program P1's frame before its last byte. -/
def p1AtLastByte : State := midFrame (.crc 3) (p1Header ++ p1Payload) [0x01, 0xC5, 0x72]

/-- A whole frame with its four CRC bytes, as FRAME_END and DISPATCH find it. -/
def wholeFrame (bytes crc : List Byte) : State := midFrame (.crc 3) bytes crc

/-- A frame of the template with a payload of `n` zero bytes. -/
def shortFrame (id0 id1 : Byte) (n : Nat) : State :=
  wholeFrame (templateHeader id0 id1 (BitVec.ofNat 8 n) 0x00 ++ zeros n) []

/-- P3's frame. -/
def p3Frame : State := wholeFrame (templateHeader 0x0E 0x01 0x94 0x00 ++ p3Payload) [0x1F, 0x9A, 0xA0, 0x4D]

/-- P4's frame B. -/
def p4Frame : State := wholeFrame (templateHeader 0x2B 0x00 0x30 0x00 ++ p4Payload) [0x7F, 0x2E, 0x7A, 0x15]

/-- P5's frame. -/
def p5Frame : State := wholeFrame (p5Header ++ p5Payload) [0x31, 0xBF, 0xF1, 0x97]

/-! ## WellFormed: an ill-formed term for each check -/

theorem test_wf_hdrlen_ok_is_28 : (Instr.hdrlenOk 27#8).wellFormed = false := by decide
theorem test_wf_hdrlen_bad_is_not_28 : (Instr.hdrlenBad 28#8).wellFormed = false := by decide
theorem test_wf_unpack_entry_past_the_word :
    (Instr.unpack 0#32 [⟨.trackingState, 31, 2⟩]).wellFormed = false := by decide
theorem test_wf_unpack_entry_without_bits :
    (Instr.unpack 0#32 [⟨.trackingState, 3, 0⟩]).wellFormed = false := by decide
theorem test_wf_unpack_names_differ :
    (Instr.unpack 0#32 [⟨.phaseLock, 0, 1⟩, ⟨.phaseLock, 1, 1⟩]).wellFormed = false := by decide
theorem test_wf_default_table : (Instr.unpack 0#32 defaultTrackStatusTable).wellFormed = true := by decide

/-! ## Decoding: words written out from 30_encoding R100, R102 and R104 -/

theorem test_decode_byte : decodeBytes [0b10101010#8, 0b00000000#8] = .ok (.evByte 0xAA#8) := by decide
theorem test_decode_timeout : decodeBytes [0b00000000#8, 0b00000001#8] = .ok (.evTimeout 0x00#8) := by decide
theorem test_decode_fail : decodeBytes [0b00000101#8, 0b00000010#8] = .ok (.evFail 0x05#8) := by decide
theorem test_decode_reserved : decodeBytes [0b11111111#8, 0b00000011#8] = .ok (.evReserved 0xFF#8) := by decide
theorem test_decode_bit_10_refused : decodeBytes [0b00000000#8, 0b00000100#8] = .error .bitsAboveEventWord := by decide
theorem test_decode_one_byte_refused : decodeBytes [0x00#8] = .error .notTwoBytes := by decide
theorem test_decode_table_word : decodeTableWord 16 0b0100000000 = some (.evTimeout 0x00#8) := by decide

/-- R104, the sync and header rows, at the ends of their ranges. -/
theorem test_decode_sync_header :
    decodeOperation defaultConfig (.sync 0) 0b0010101010#10 = .syncMatch 0xAA#8 ∧
    decodeOperation defaultConfig (.sync 1) 0b0001000100#10 = .syncMatch 0x44#8 ∧
    decodeOperation defaultConfig (.sync 2) 0b0000010010#10 = .syncComplete 0x12#8 ∧
    decodeOperation defaultConfig (.sync 1) 0b0010101010#10 = .syncMismatch 0xAA#8 ∧
    decodeOperation defaultConfig (.header ⟨3, by omega⟩) 0b0000011100#10 = .hdrlenOk 0x1C#8 ∧
    decodeOperation defaultConfig (.header ⟨3, by omega⟩) 0b0000011011#10 = .hdrlenBad 0x1B#8 ∧
    decodeOperation defaultConfig (.header ⟨4, by omega⟩) 0b0000101010#10 = .hdrByte 0x2A#8 ∧
    decodeOperation defaultConfig (.header ⟨26, by omega⟩) 0b0000110100#10 = .hdrByte 0x34#8 ∧
    decodeOperation defaultConfig (.header ⟨27, by omega⟩) 0b0000010010#10 = .hdrLast 0x12#8 := by decide

/-- R104, the payload and CRC rows, at the ends of their ranges; a timeout in any phase. -/
theorem test_decode_payload_crc :
    decodeOperation defaultConfig (.payload ⟨65535, by omega⟩) 0b0010101010#10 = .payloadByte 0xAA#8 ∧
    decodeOperation defaultConfig (.payload ⟨2, by omega⟩) 0b0000000000#10 = .payloadByte 0x00#8 ∧
    decodeOperation defaultConfig (.payload ⟨1, by omega⟩) 0b0000000000#10 = .payloadLast 0x00#8 ∧
    decodeOperation defaultConfig (.crc 0) 0b0001101110#10 = .crcByte 0x6E#8 ∧
    decodeOperation defaultConfig (.crc 2) 0b0001101110#10 = .crcByte 0x6E#8 ∧
    decodeOperation defaultConfig (.crc 3) 0b0001101110#10 = .crcLast 0x6E#8 ∧
    decodeOperation defaultConfig (.crc 3) 0b0111111111#10 = .evTimeout 0xFF#8 := by decide

/-- R102: the five ids and another. -/
theorem test_decode_message_ids :
    decodeMessageId defaultConfig 0b0000000000101010#16 true = .dispatchBestpos true ∧
    decodeMessageId defaultConfig 0b0000000000101011#16 true = .dispatchRange true ∧
    decodeMessageId defaultConfig 0b0000000001010011#16 true = .dispatchTrackstat true ∧
    decodeMessageId defaultConfig 0b0000000011110001#16 true = .dispatchBestxyz true ∧
    decodeMessageId defaultConfig 0b0000000100001110#16 false = .dispatchSatxyz false ∧
    decodeMessageId defaultConfig 0b0000001111100111#16 true = .dispatchUnknown true := by decide

/-! ## Single operations -/

/-- R262: the call starts with no read counted, and keeps the frame. -/
theorem test_decode_next : after (exec .decodeNext { midFrame (.sync 1) [0xAA] [] with callActive := false, nRead := 9 })
    (fun t => (t.callActive, t.nRead, t.phase)) = some (true, 0, .sync 1) := by decide

/-- V-RD-9: refused. -/
theorem test_decode_next_reentrant : refusalOf (exec .decodeNext (midFrame (.sync 1) [0xAA] [])) = some .reentrantCall := by
  decide

/-- V-RD-2: with a ceiling of 0, NoFrameYet with no request. -/
theorem test_read_ceiling : after (exec .read ((midFrame (.sync 0) [] []).withConfig { defaultConfig with maxBytesPerCall := 0 }))
    (fun t => (t.callActive, t.nRead, t.results)) = some (false, 0, [.noFrameYet]) := by decide

/-- V-SY-1, as one READ: the byte is taken from the transport and counted. -/
theorem test_read_byte : after (exec .read { midFrame (.sync 0) [] [] with transport := [0x0AA#10, 0x044#10] })
    (fun t => (t.phase, t.buf, t.nRead, t.transport)) = some (.sync 1, [(0, 0xAA)], 1, [0x044#10]) := by decide

/-- V-SY-2, its last byte. -/
theorem test_ev_byte : after (exec (.evByte 0x12) (midFrame (.sync 2) [0xAA, 0x44] []))
    (fun t => (t.phase, Memory.bytes t.buf, t.status)) = some (.header ⟨3, by omega⟩, [0xAA, 0x44, 0x12], 0x0#4) := by decide

/-- V-RD-3: a timeout keeps the frame. -/
theorem test_ev_timeout : after (exec (.evTimeout 0) (midFrame (.sync 1) [0xAA] []))
    (fun t => (t.phase, t.callActive, t.results)) = some (.sync 1, true, []) := by decide

/-- V-RD-4: the call ends, the frame and the status are kept. -/
theorem test_ev_fail : after (exec (.evFail 0) (midFrame (.sync 2) [0xAA, 0x44] []))
    (fun t => (t.phase, t.buf.length, t.status, t.callActive, t.results)) =
      some (.sync 2, 2, 0x0#4, false, [.error .transportError]) := by decide

/-- R101. -/
theorem test_ev_reserved : refusalOf (exec (.evReserved 0) (midFrame (.sync 0) [] [])) = some .reservedEventKind := by decide

/-- V-SY-7: equal sync bytes are told apart by their position. -/
theorem test_sync_match_equal_bytes : after (exec (.syncMatch 0x55)
      ((midFrame (.sync 1) [0x55] []).withConfig { defaultConfig with sync0 := 0x55, sync1 := 0x55 }))
    (fun t => (t.phase, Memory.bytes t.buf)) = some (.sync 2, [0x55, 0x55]) := by decide

/-- R141's corner: SYNC0 at position 1 is no match. -/
theorem test_sync_match_wrong_byte : refusalOf (exec (.syncMatch 0xAA) (midFrame (.sync 1) [0xAA] [])) = some .notSelected := by
  decide

/-- R142's example. -/
theorem test_sync_complete : after (exec (.syncComplete 0x12) (midFrame (.sync 2) [0xAA, 0x44] []))
    (fun t => (t.phase, Memory.bytes t.buf)) = some (.header ⟨3, by omega⟩, [0xAA, 0x44, 0x12]) := by decide

/-- V-SY-6: the second AA at position 2 drops the frame and itself. -/
theorem test_sync_mismatch : after (exec (.syncMismatch 0xAA) (midFrame (.sync 2) [0xAA, 0x44] []))
    (fun t => (t.phase, t.buf, t.status)) = some (.sync 0, [], 0x3#4) := by decide

/-- V-SY-4: a mismatch at position 0 writes the status. -/
theorem test_sync_mismatch_at_zero : after (exec (.syncMismatch 0x00) (midFrame (.sync 0) [] []))
    (fun t => (t.phase, t.status)) = some (.sync 0, 0x3#4) := by decide

/-- V-HD-1. -/
theorem test_hdrlen_ok : after (exec (.hdrlenOk 0x1C) (midFrame (.header ⟨3, by omega⟩) [0xAA, 0x44, 0x12] []))
    (fun t => (t.phase, t.hdr.headerLength, t.buf.length)) = some (.header ⟨4, by omega⟩, some 28, 4) := by decide

/-- V-HD-3: AA at offset 3 is a bad length and is dropped with the frame. -/
theorem test_hdrlen_bad : after (exec (.hdrlenBad 0xAA) (midFrame (.header ⟨3, by omega⟩) [0xAA, 0x44, 0x12] []))
    (fun t => (t.phase, t.buf, t.status)) = some (.sync 0, [], 0x4#4) := by decide

/-- V-HD-8: the id is written at offset 5, the length not yet. -/
theorem test_hdr_byte : after (exec (.hdrByte 0x00) (midFrame (.header ⟨5, by omega⟩) (p1Header.take 5) []))
    (fun t => (t.phase, t.hdr.messageId, t.hdr.messageLength)) = some (.header ⟨6, by omega⟩, some 42, none) := by decide

/-- V-HD-5: 4097 is above a cap of 4096. -/
theorem test_hdr_byte_too_long : after (exec (.hdrByte 0x10)
      ((midFrame (.header ⟨9, by omega⟩) [0xAA, 0x44, 0x12, 0x1C, 0x2A, 0x00, 0x00, 0x20, 0x01] []).withConfig
        { defaultConfig with payloadCap := 4096 }))
    (fun t => (t.phase, t.buf, t.status)) = some (.sync 0, [], 0x6#4) := by decide

/-- V-HD-7: the thirteen registers. -/
theorem test_hdr_last : after (exec (.hdrLast 0x12) (midFrame (.header ⟨27, by omega⟩) (p1Header.take 27) []))
    (fun t => (t.phase, headerRecord t.hdr)) = some (.payload ⟨72, by omega⟩,
      some ⟨28, 42, 0, 0x20, 72, 7, 0, 0xB4, 2000, 345600000, 0x00040000, 0, 0x1234⟩) := by decide

/-- R171's example: the first payload byte lies at 28. -/
theorem test_payload_byte : after (exec (.payloadByte 0xAA) (midFrame (.payload ⟨72, by omega⟩) p1Header []))
    (fun t => (t.phase, Memory.read t.buf 28, t.buf.length)) = some (.payload ⟨71, by omega⟩, some 0xAA, 29) := by decide

/-- V-PV-3. -/
theorem test_payload_last : after (exec (.payloadLast 0x00)
      (midFrame (.payload ⟨1, by omega⟩) (p1Header ++ p1Payload.take 71) []))
    (fun t => (t.phase, t.buf.length)) = some (.crc 0, 100) := by decide +kernel

/-- R174's example: the byte is not in the buffer. -/
theorem test_crc_byte : after (exec (.crcByte 0x6E) (midFrame (.crc 0) p1Header []))
    (fun t => (t.phase, t.crcb, t.buf.length)) = some (.crc 1, [0x6E], 28) := by decide

/-- P1: the last byte ends the call with the BestPos record, its covariances and the header of V-HD-7. -/
theorem test_crc_last_p1 : after (exec (.crcLast 0x6E) p1AtLastByte)
    (fun t => (t.phase, t.buf, t.crcb, t.status, t.callActive)) = some (.sync 0, [], [], 0x1#4, false) ∧
    after (exec (.crcLast 0x6E) p1AtLastByte) State.results = some [.decoded
      ⟨⟨28, 42, 0, 0x20, 72, 7, 0, 0xB4, 2000, 345600000, 0x00040000, 0, 0x1234⟩,
        rxStatus defaultConfig 0x00040000,
        .bestPos ⟨0, 16, 0xC02F881A1554FBDB, 0xC047EFA14488C60D, 0x4090000000000000, 0x3F000000, 0x3E800000,
          0x3FC00000, 12, 10, 0x3FD0000000000000, 0x3FB0000000000000, 0x4002000000000000⟩, true⟩] := by
  constructor <;> decide +kernel

/-- V-PV-5: the CRC bytes in the reverse order are a mismatch, and Strict drops the frame. -/
theorem test_crc_last_reversed : after (exec (.crcLast 0x01) { p1AtLastByte with crcb := [0x6E, 0x72, 0xC5] })
    (fun t => (t.phase, t.status, t.callActive, t.results)) = some (.sync 0, 0x7#4, true, []) := by decide +kernel

/-- P5b and P5c: the last CRC byte 96 is dropped under Strict and decoded with the warning under Lenient. -/
theorem test_frame_end_strict : after (exec .frameEnd { p5Frame with crcb := [0x31, 0xBF, 0xF1, 0x96] })
    (fun t => (t.status, t.callActive, t.results)) = some (0x7#4, true, []) := by decide +kernel
theorem test_frame_end_lenient :
    after (exec .frameEnd ({ p5Frame with crcb := [0x31, 0xBF, 0xF1, 0x96] }.withConfig lenientConfig))
      (fun t => (t.status, t.callActive, t.results.length)) = some (0x2#4, false, 1) := by decide +kernel

/-- V-DC-6: 65 bytes are too short. -/
theorem test_dispatch_bestpos_short :
    after (exec (.dispatchBestpos true) (wholeFrame (templateHeader 0x2A 0x00 0x41 0x00 ++ zeros 65) []))
      (fun t => (t.status, t.callActive, t.results)) = some (0xA#4, false, [.error .payloadTooShort]) := by decide +kernel

/-- V-DC-5: 106 bytes are enough; every field is 0. -/
theorem test_dispatch_bestxyz :
    after (exec (.dispatchBestxyz true) (wholeFrame (templateHeader 0xF1 0x00 0x6A 0x00 ++ zeros 106) []))
      (fun t => (t.status, t.results.map fun r => match r with
        | .decoded f => some f.record
        | _ => none)) =
      some (0x1#4, [some (.bestXyz ⟨0, 0, 0, 0, 0, 0, 0, 0, 0, 0, 0, 0, 0, 0, 0, 0, 0, 0⟩)]) := by decide +kernel

/-- P3: two separate satellites. -/
theorem test_dispatch_satxyz : after (exec (.dispatchSatxyz true) p3Frame) (fun t => t.results.map fun r => match r with
      | .decoded f => some f.record
      | _ => none) =
    some [some (.satXyz ⟨2,
      [⟨5, 0x416312D000000000, 0x417312D000000000, 0xC146E36000000000, 0x3FF8000000000000, 0x4004000000000000,
        0x400C000000000000⟩,
       ⟨17, 0xC16312D000000000, 0x3FE0000000000000, 0x417312D000000000, 0xBFF8000000000000, 0x0000000000000000,
        0x401D000000000000⟩]⟩)] := by decide +kernel

/-- V-DC-8: a count whose product is 0 in 32 bits is out of bounds. -/
theorem test_dispatch_satxyz_count : errorOf (decSatXyz defaultSatXyzLayout
      ⟨memoryOf (templateHeader 0x0E 0x01 0x0C 0x00 ++ zeros 8 ++ [0x00, 0x00, 0x00, 0x40]), 12⟩) =
    some .countFieldOutOfBounds := by decide +kernel

/-- P5a: the PRN is sign-extended, the status word unpacked. -/
theorem test_dispatch_trackstat : after (exec (.dispatchTrackstat true) p5Frame) (fun t => t.results.map fun r => match r with
      | .decoded f => some f.record
      | _ => none) =
    some [some (.trackStat ⟨0, 16, 0x40A00000, 1,
      [⟨-7, trackingStatus defaultConfig 0xFFFFFFFF, 0x4175752A00000000, 0xC3FA0000, 0x42280000, 0x41480000,
        0x3F400000, 0x3F800000⟩]⟩)] := by decide +kernel

/-- P5d: a negative count is out of bounds. -/
theorem test_dispatch_trackstat_negative :
    after (exec (.dispatchTrackstat true)
        (wholeFrame (templateHeader 0x53 0x00 0x10 0x00 ++ zeros 12 ++ [0xFF, 0xFF, 0xFF, 0xFF]) []))
      (fun t => (t.status, t.results)) = some (0x9#4, [.error .countFieldOutOfBounds]) := by decide +kernel

/-- P4, frame B. -/
theorem test_dispatch_range : after (exec (.dispatchRange true) p4Frame) (fun t => t.results.map fun r => match r with
      | .decoded f => some f.record
      | _ => none) =
    some [some (.range ⟨1,
      [⟨12, 0x417406F400000000, 0x3E000000, 0xC19A39DE00000000, 0x3C000000, 0xC49A5000, 0x42340000, 0x447A0000,
        trackingStatus defaultConfig 0x08109C04⟩]⟩)] := by decide +kernel

/-- V-DC-12: 3 bytes are too short for a Range. -/
theorem test_dispatch_range_short :
    after (exec (.dispatchRange true) (wholeFrame (templateHeader 0x2B 0x00 0x03 0x00 ++ zeros 3) []))
      (fun t => (t.status, t.results)) = some (0xA#4, [.error .payloadTooShort]) := by decide +kernel

/-- V-DC-1: an unknown id drops the frame and the call goes on. -/
theorem test_dispatch_unknown :
    after (exec (.dispatchUnknown true)
        (wholeFrame (templateHeader 0xE7 0x03 0x04 0x00 ++ [0x01, 0x02, 0x03, 0x04]) []))
      (fun t => (t.phase, t.status, t.callActive, t.results)) = some (.sync 0, 0x8#4, true, []) := by decide +kernel

/-- V-BF-4: bit 31 by a logical shift. -/
theorem test_unpack : after (exec (.unpack 0x83E50000 defaultTrackStatusTable) State.reset) State.fnResult =
    some (some (.fields [(.trackingState, 0), (.svChannel, 0), (.phaseLock, 0), (.parityKnown, 0), (.codeLock, 0),
      (.correlatorType, 0), (.satelliteSystem, 5), (.reserved19, 0), (.grouping, 0), (.signalType, 31), (.fec, 0),
      (.primaryL1, 0), (.halfCycleAdded, 0), (.reserved29, 0), (.prnLock, 0), (.channelAssignment, 1)])) := by
  decide +kernel

/-- V-BF-6: bit 18 of the receiver status. -/
theorem test_rx_status : fieldValue (rxStatus defaultConfig 0x00040000).flags .almanacUtcFlag = some 1 ∧
    fieldValue (rxStatus defaultConfig 0x00040000).flags .rf2AgcFault = some 0 := by decide

/-- V-CRC-5. -/
theorem test_crc32 : after (exec (.crc32 [0x31, 0x32, 0x33, 0x34, 0x35, 0x36, 0x37, 0x38, 0x39]) State.reset)
    State.fnResult = some (some (.word 0x2DFD2D88)) := by decide

/-- V-CRC-3. -/
theorem test_table_value : after (exec (.tableValue 0xFF) State.reset) State.fnResult =
    some (some (.word 0x2D02EF8D)) := by decide

/-- V-CRC-10. -/
theorem test_bswap32 : after (exec (.bswap32 0x01C5726E) State.reset) State.fnResult =
    some (some (.word 0x6E72C501)) := by decide

/-- V-SQ-4: the exact square of the f32 nearest 0.1. -/
theorem test_square64 : after (exec (.square64 0x3DCCCCCD) State.reset) State.fnResult =
    some (some (.double 0x3F847AE151EB8520)) := by decide +kernel

/-- V-SQ-7 and V-SQ-6: the least subnormal, and minus infinity. -/
theorem test_square64_corners : square64 0 0x00000001 = 0x2D50000000000000 ∧
    square64 0 0xFF800000 = 0x7FF0000000000000 ∧ square64 0 0x80000000 = 0 := by decide +kernel

/-! ## Steps from reset -/

/-- R314: with nothing placed, the block holds its state. -/
theorem test_reset_is_idle : after (step State.reset) id = some State.reset := by decide

/-- A placed event word is run by the next step: AA from reset gives `Sync{1}` (V-SY-1). -/
theorem test_placed_word_runs : after (step (State.reset.withFetchWord 16 0x0AA))
    (fun t => (t.phase, t.nRead)) = some (.sync 1, 1) := by decide

/-! ## Witnesses: a state and operands that meet the hypotheses of each statement -/

/-- P1's stream: the host calls, from reset. -/
def calling : State := { State.reset with host := [.serialized] }

/-- A READ of one answer in the middle of a frame's sync. -/
def reading (w : EventWord) : State := { midFrame (.sync 1) [0xAA] [] with transport := [w] }

/-- A machine in the middle of a frame, with an answer that its transport still holds. -/
theorem witness_ResetLeavesTheSpecsValues :
    (reading 0x0AA#10).transport = 0x0AA#10 :: [] ∧ lenientConfig.maxBytesPerCall ≠ 0 := by decide

/-- R342: the answer the transport holds at reset is what the next call reads; the byte 0xAA matches in `Sync{0}`. -/
theorem test_rebuilt_reads_the_transport :
    after (exec .read { (reading 0x0AA#10).rebuiltWith lenientConfig with callActive := true })
      (fun t => (t.phase, t.buf, t.transport, t.nRead)) = some (.sync 1, [(0, 0xAA)], [], 1) := by decide

theorem witness_EveryStepKeepsTheInvariant :
    (calling.Inv ∧ completes (step calling) = true) ∧
    ((reading 0x044#10).Inv ∧ completes (step (reading 0x044#10)) = true ∧ completes (exec .read (reading 0x044#10)) = true) ∧
    (p1AtLastByte.Inv ∧ completes (exec (.crcLast 0x6E) p1AtLastByte) = true) := by decide +kernel

theorem witness_StepsStopOnlyWhereTheSpecRefuses :
    (p1AtLastByte.Inv ∧ layoutFits p1AtLastByte.cfg.layout = true) ∧
    ((State.resetWith equalIdsConfig).Inv ∧ refusalOf (step (State.resetWith equalIdsConfig)) = some .equalMessageIds) ∧
    (({ reading 0x044#10 with host := [.immediate] }).Inv ∧
      refusalOf (step { reading 0x044#10 with host := [.immediate] }) = some .reentrantCall) ∧
    ((reading 0x300#10).Inv ∧ refusalOf (step (reading 0x300#10)) = some .reservedEventKind) := by decide +kernel

theorem witness_ConfigurationNeverChanges :
    completes (step calling) = true ∧ completes (exec (.crcLast 0x6E) p1AtLastByte) = true := by decide +kernel

/-- Kept, grown and emptied. -/
theorem witness_BufferOnlyGrowsOrIsCleared :
    ((reading 0x100#10).Inv ∧ after (step (reading 0x100#10)) (fun t => t.buf.length) = some 1) ∧
    ((reading 0x044#10).Inv ∧ after (step (reading 0x044#10)) (fun t => t.buf.length) = some 2) ∧
    ((reading 0x000#10).Inv ∧ after (step (reading 0x000#10)) (fun t => t.buf.length) = some 0) := by decide

theorem witness_StatusIsWrittenOnlyByFrameEvents :
    after (step (reading 0x000#10)) State.status = some 0x3#4 ∧ (reading 0x000#10).status ≠ 0x3#4 := by decide

theorem witness_LaterAnswersAreNotRead :
    (reading 0x044#10).transport ≠ [] ∧ completes (step (reading 0x044#10)) = true := by decide

/-- A step with no result, and one with. -/
theorem witness_OneResultEndsTheCall :
    after (step (reading 0x044#10)) (fun t => t.results.length) = some 0 ∧
    after (step (reading 0x200#10)) (fun t => t.results.length) = some 1 := by decide

theorem witness_EveryCallEndsWithinItsCeiling :
    (reading 0x044#10).Inv ∧ layoutFits (reading 0x044#10).cfg.layout = true ∧ idsDistinct (reading 0x044#10).cfg = true ∧
      (reading 0x044#10).callActive = true ∧ (reading 0x044#10).hostSerialized = true ∧
      (reading 0x044#10).answersAreEvents = true := by decide

/-- The shortest frame: a payload of one byte, under a cap of one. -/
theorem witness_ValidFrameReachesItsDecoder :
    let s := (midFrame (.sync 0) [] []).withConfig { defaultConfig with payloadCap := 1 }
    let rest := (templateHeader 0x2A 0x00 0x01 0x00).drop 4
    s.noFrame ∧ rest.length = 24 ∧ rest[0]? = some 0x2A#8 ∧ rest[1]? = some 0x00#8 ∧ rest[4]? = some 0x01#8 ∧
      rest[5]? = some 0x00#8 ∧ (le16 0x01#8 0x00#8).toNat = [0x07#8].length ∧ 1 ≤ [0x07#8].length ∧
      [0x07#8].length ≤ s.cfg.payloadCap := by decide

theorem witness_EventWordsRoundTrip : (0b00000100#8).extractLsb' 2 6 ≠ 0#6 := by decide

theorem witness_SelectedOperationsDecodeFromTheirWords :
    selects defaultConfig (.sync 1) (.syncMatch 0x44#8) = true ∧ selects defaultConfig (.sync 2) (.syncComplete 0x12#8) = true ∧
    selects defaultConfig (.sync 2) (.syncMismatch 0x44#8) = true ∧
    selects defaultConfig (.header ⟨3, by omega⟩) (.hdrlenOk 28#8) = true ∧
    selects defaultConfig (.header ⟨3, by omega⟩) (.hdrlenBad 27#8) = true ∧
    selects defaultConfig (.header ⟨26, by omega⟩) (.hdrByte 0xFF#8) = true ∧
    selects defaultConfig (.header ⟨27, by omega⟩) (.hdrLast 0x00#8) = true ∧
    selects defaultConfig (.payload ⟨2, by omega⟩) (.payloadByte 0x00#8) = true ∧
    selects defaultConfig (.payload ⟨1, by omega⟩) (.payloadLast 0x00#8) = true ∧
    selects defaultConfig (.crc 2) (.crcByte 0x00#8) = true ∧ selects defaultConfig (.crc 3) (.crcLast 0x00#8) = true := by
  decide

theorem witness_ExactlyOneByteOperationIsSelected :
    selects defaultConfig (.crc 3) (.crcLast 0xFF#8) = true ∧ encodeEvent (.crcLast 0xFF#8) = some (0#2 ++ 0xFF#8) := by decide

theorem witness_MessageIdsSelectTheirDecoders :
    idsDistinct defaultConfig = true ∧ encodeMessageId defaultConfig (.dispatchRange true) = some 43#16 := by decide

theorem witness_StepRunsTheDecodedEvent :
    (idsDistinct (reading 0x044#10).cfg = true ∧ (reading 0x044#10).hostSerialized = true ∧
      (reading 0x044#10).callActive = true ∧ (reading 0x044#10).nRead ≠ (reading 0x044#10).cfg.maxBytesPerCall ∧
      (reading 0x044#10).transport = 0x044#10 :: []) ∧
    (idsDistinct State.reset.cfg = true ∧ State.reset.hostSerialized = true ∧ State.reset.callActive = false ∧
      State.reset.host = []) ∧
    (idsDistinct calling.cfg = true ∧ calling.callActive = false ∧ calling.host = .serialized :: []) ∧
    ({ State.reset with host := [.immediate] }).host = .immediate :: [] := by decide

theorem witness_PlacedWordIsRunNext : idsDistinct State.reset.cfg = true := by decide

theorem witness_DecodeNextStartsACallOfReads :
    State.reset.callActive = false ∧ idsDistinct (reading 0x044#10).cfg = true ∧
      (reading 0x044#10).hostSerialized = true ∧ (reading 0x044#10).callActive = true := by decide

theorem witness_ReentrantCallIsRefused :
    (reading 0x044#10).callActive = true ∧ ({ reading 0x044#10 with host := [.immediate] }).hostSerialized = false := by decide

theorem witness_EqualMessageIdsAreRefused : idsDistinct (State.resetWith equalIdsConfig).cfg = false := by decide

/-- At the ceiling, and one below it with each kind of answer. -/
theorem witness_ReadTakesAndCountsOneAnswer :
    (({ reading 0x044#10 with nRead := 65567 }).callActive = true ∧ ({ reading 0x044#10 with nRead := 65567 }).nRead = defaultConfig.maxBytesPerCall) ∧
    ({ reading 0x044#10 with nRead := 65566 }).nRead ≠ defaultConfig.maxBytesPerCall ∧
    (0x044#10).extractLsb' 8 2 = 0#2 ∧ (0x1FF#10).extractLsb' 8 2 = 1#2 ∧ (0x200#10).extractLsb' 8 2 = 2#2 ∧
      (0x3FF#10).extractLsb' 8 2 = 3#2 := by decide

theorem witness_ReadBeyondTheQueueTakesAFreeAnswer :
    (midFrame (.sync 1) [0xAA] []).callActive = true ∧
      (midFrame (.sync 1) [0xAA] []).nRead ≠ (midFrame (.sync 1) [0xAA] []).cfg.maxBytesPerCall ∧
      (midFrame (.sync 1) [0xAA] []).transport = [] := by decide

theorem witness_ReservedEventKindIsRefused : (0x300#10).extractLsb' 8 2 = 3#2 := by decide

theorem witness_EveryByteIsTaken :
    p1AtLastByte.Inv ∧ layoutFits p1AtLastByte.cfg.layout = true ∧ p1AtLastByte.callActive = true ∧
      p1AtLastByte.answerIsEvent = true := by decide +kernel

theorem witness_UnselectedOperationsAreRefused :
    encodeEvent (.crcLast 0x00#8) = some 0x000#10 ∧ eventKind 0x000#10 = 0#2 ∧ (∀ v, Instr.crcLast 0x00#8 ≠ .evByte v) ∧
      selects defaultConfig (.crc 2) (.crcLast 0x00#8) = false :=
  ⟨by decide, by decide, by simp, by decide⟩

/-- Another id; the id itself under Strict with a mismatch; the id itself for DISPATCH_UNKNOWN; after reset, no register
written and CRC_LAST among the operations that end a frame. -/
theorem witness_UnselectedFrameOperationsAreRefused :
    State.reset.callActive = false ∧ State.reset.crcb.length ≠ 4 ∧
    headerRecord p5Frame.hdr = some (templateRecord 83 56 3 0) ∧ 83#16 = p5Frame.cfg.msgidTrackstat ∧
    83#16 ≠ p5Frame.cfg.msgidBestpos ∧ p5Frame.cfg.crcPolicy = .strict ∧
    headerRecord State.reset.hdr = none ∧ endsFrame (.crcLast 0) = true ∧ endsFrame (.dispatchRange false) = true := by
  decide +kernel

/-- Positions 0, 1 and 2, a match and a mismatch at each. -/
theorem witness_SynchronizerMatchesOrDrops :
    ((midFrame (.sync 0) [] []).buf.length = 0 ∧ (midFrame (.sync 0) [] []).cfg.sync0 = 0xAA) ∧
    ((midFrame (.sync 1) [0xAA] []).buf.length = 1 ∧ (midFrame (.sync 1) [0xAA] []).cfg.sync1 = 0x44) ∧
    ((midFrame (.sync 2) [0xAA, 0x44] []).buf.length = 2 ∧ (midFrame (.sync 2) [0xAA, 0x44] []).cfg.sync2 = 0x12) ∧
    (0x00#8 ≠ 0xAA#8 ∧ 0xAA#8 ≠ 0x44#8 ∧ 0xAA#8 ≠ 0x12#8) := by decide

theorem witness_HeaderLengthIsChecked :
    (midFrame (.header ⟨3, by omega⟩) [0xAA, 0x44, 0x12] []).phase = .header ⟨3, by omega⟩ ∧
      (midFrame (.header ⟨3, by omega⟩) [0xAA, 0x44, 0x12] []).buf.length = 3 ∧ 27#8 ≠ 28#8 := by decide

/-- Offsets 4, 8, 10 and 26. -/
theorem witness_HeaderByteWritesItsRegister :
    (Memory.wf (memoryOf (p1Header.take 4)) = true ∧ (memoryOf (p1Header.take 4)).length = 4) ∧
    (Memory.wf (memoryOf (p1Header.take 8)) = true ∧ (memoryOf (p1Header.take 8)).length = 8) ∧
    (Memory.wf (memoryOf (p1Header.take 10)) = true ∧ (memoryOf (p1Header.take 10)).length = 10) ∧
    (Memory.wf (memoryOf (p1Header.take 26)) = true ∧ (memoryOf (p1Header.take 26)).length = 26) := by decide

/-- Lengths 0, the cap and one above it. -/
theorem witness_MessageLengthIsChecked :
    (Memory.wf (memoryOf (p1Header.take 9)) = true ∧ (memoryOf (p1Header.take 9)).length = 9 ∧
      Memory.read (memoryOf (p1Header.take 9)) 8 = some 0x48) ∧
    le16 0x00 0x00 = 0#16 ∧ (le16 0x00 0x10).toNat = 4096 ∧ (le16 0x01 0x10).toNat = 4097 := by decide

theorem witness_LastHeaderByteStartsThePayload :
    let s := midFrame (.header ⟨27, by omega⟩) (p1Header.take 27) []
    s.phase = .header ⟨27, by omega⟩ ∧ Memory.wf s.buf = true ∧ s.buf.length = 27 ∧ Memory.read s.buf 26 = some 0x34 ∧
      s.hdr.messageLength = some 72 ∧ 1 ≤ (72#16).toNat := by decide

/-- The first and the last payload byte. -/
theorem witness_PayloadBytesAreStored :
    (let s := midFrame (.payload ⟨72, by omega⟩) p1Header []
     s.hdr.messageLength = some 72#16 ∧ (72#16).toNat ≤ s.cfg.payloadCap ∧ s.buf.length = 28 + (72#16).toNat - 72) ∧
    (let s := midFrame (.payload ⟨1, by omega⟩) (p1Header ++ p1Payload.take 71) []
     s.hdr.messageLength = some 72#16 ∧ s.buf.length = 28 + (72#16).toNat - 1) := by decide +kernel

theorem witness_CrcBytesAreKeptApart : (midFrame (.crc 2) p1Header [0x01, 0xC5]).phase = .crc 2 := by decide

/-- The whole frame of P5. -/
theorem witness_FrameEndAlwaysReturnsToSync :
    p5Frame.holdsFrame (templateRecord 83 56 3 0) ∧ p5Frame.crcb.length = 4 ∧ layoutFits p5Frame.cfg.layout = true := by
  decide +kernel

theorem witness_FourthCrcByteEndsTheFrame :
    p1AtLastByte.phase = .crc 3 ∧ p1AtLastByte.holdsFrame (templateRecord 42 72 7 0x40000) ∧
      p1AtLastByte.crcb.length = 3 ∧ layoutFits p1AtLastByte.cfg.layout = true := by decide +kernel

/-- A match, and a mismatch under each policy. -/
theorem witness_FrameEndComparesAndDispatches :
    p5Frame.crcb = [0x31, 0xBF, 0xF1, 0x97] ∧ p5Frame.hdr.messageId = some 83#16 ∧
    le32 0x31 0xBF 0xF1 0x97 = bswap32 (crc32 (Memory.bytes p5Frame.buf)) ∧
    le32 0x31 0xBF 0xF1 0x96 ≠ bswap32 (crc32 (Memory.bytes p5Frame.buf)) ∧ p5Frame.cfg.crcPolicy = .strict ∧
    (p5Frame.withConfig lenientConfig).cfg.crcPolicy = .lenient := by decide +kernel

theorem witness_UnknownMessageIsDropped :
    let s := wholeFrame (templateHeader 0xE7 0x03 0x04 0x00 ++ zeros 4) []
    s.hdr.messageId = some 999#16 ∧ 999#16 ≠ s.cfg.msgidBestpos ∧ 999#16 ≠ s.cfg.msgidBestxyz ∧
      999#16 ≠ s.cfg.msgidSatxyz ∧ 999#16 ≠ s.cfg.msgidTrackstat ∧ 999#16 ≠ s.cfg.msgidRange := by decide +kernel

/-- One byte below each minimum. -/
theorem witness_ShortPayloadIsRaised :
    (shortFrame 0x2A 0x00 65).holdsFrame (templateRecord 42 65 0 0) ∧ 65 < bestPosMinLen defaultLayout.bestPos ∧
    (shortFrame 0xF1 0x00 105).holdsFrame (templateRecord 241 105 0 0) ∧ 105 < bestXyzMinLen defaultLayout.bestXyz ∧
    (shortFrame 0x0E 0x01 11).holdsFrame (templateRecord 270 11 0 0) ∧ 11 < satXyzMinLen defaultLayout.satXyz ∧
    (shortFrame 0x53 0x00 15).holdsFrame (templateRecord 83 15 0 0) ∧ 15 < trackStatMinLen defaultLayout.trackStat ∧
    (shortFrame 0x2B 0x00 3).holdsFrame (templateRecord 43 3 0 0) ∧ 3 < rangeMinLen defaultLayout.range := by
  decide +kernel

/-- One entry more than fits, and for TrackStat also a count of -1. -/
theorem witness_CountOutOfBoundsIsRaised :
    (let s := wholeFrame (templateHeader 0x0E 0x01 0x0C 0x00 ++ zeros 8 ++ [0x01, 0x00, 0x00, 0x00]) []
     s.holdsFrame (templateRecord 270 12 0 0) ∧ satXyzMinLen defaultLayout.satXyz ≤ 12 ∧
       payU32 (s.payload (templateRecord 270 12 0 0)) defaultLayout.satXyz.numSatellites = some 1#32 ∧
       12 < defaultLayout.satXyz.base + (1#32).toNat * 68) ∧
    (let s := wholeFrame (templateHeader 0x53 0x00 0x10 0x00 ++ zeros 12 ++ [0xFF, 0xFF, 0xFF, 0xFF]) []
     s.holdsFrame (templateRecord 83 16 0 0) ∧ trackStatMinLen defaultLayout.trackStat ≤ 16 ∧
       payI32 (s.payload (templateRecord 83 16 0 0)) defaultLayout.trackStat.numChannels = some (-1)) ∧
    (let s := wholeFrame (templateHeader 0x53 0x00 0x10 0x00 ++ zeros 12 ++ [0x01, 0x00, 0x00, 0x00]) []
     payI32 (s.payload (templateRecord 83 16 0 0)) defaultLayout.trackStat.numChannels = some 1 ∧
       (16 : Int) < defaultLayout.trackStat.base + 1 * 40) ∧
    (let s := wholeFrame (templateHeader 0x2B 0x00 0x04 0x00 ++ [0x01, 0x00, 0x00, 0x00]) []
     s.holdsFrame (templateRecord 43 4 0 0) ∧ rangeMinLen defaultLayout.range ≤ 4 ∧
       payU16 (s.payload (templateRecord 43 4 0 0)) defaultLayout.range.numObservations = some 1#16 ∧
       4 < defaultLayout.range.base + (1#16).toNat * 44) := by decide +kernel

/-- The shortest payload that BestPos accepts. -/
theorem witness_BestPosIsDecoded :
    (shortFrame 0x2A 0x00 66).holdsFrame (templateRecord 42 66 0 0) ∧ 42#16 = defaultConfig.msgidBestpos ∧
      bestPosMinLen defaultConfig.layout.bestPos ≤ (66#16).toNat := by decide +kernel

/-- The shortest payload that BestXyz accepts. -/
theorem witness_BestXyzIsDecoded :
    (shortFrame 0xF1 0x00 106).holdsFrame (templateRecord 241 106 0 0) ∧ 241#16 = defaultConfig.msgidBestxyz ∧
      bestXyzMinLen defaultConfig.layout.bestXyz ≤ (106#16).toNat := by decide +kernel

/-- P3: two entries, and no byte more. -/
theorem witness_SatXyzIsDecoded :
    p3Frame.holdsFrame (templateRecord 270 148 0 0) ∧ layoutFits p3Frame.cfg.layout = true ∧
      270#16 = p3Frame.cfg.msgidSatxyz ∧ satXyzMinLen p3Frame.cfg.layout.satXyz ≤ 148 ∧
      payU32 (p3Frame.payload (templateRecord 270 148 0 0)) p3Frame.cfg.layout.satXyz.numSatellites = some 2#32 ∧
      p3Frame.cfg.layout.satXyz.base + (2#32).toNat * 68 = 148 := by decide +kernel

/-- P5: one channel, and no byte more. -/
theorem witness_TrackStatIsDecoded :
    p5Frame.holdsFrame (templateRecord 83 56 3 0) ∧ layoutFits p5Frame.cfg.layout = true ∧
      83#16 = p5Frame.cfg.msgidTrackstat ∧ trackStatMinLen p5Frame.cfg.layout.trackStat ≤ 56 ∧
      payI32 (p5Frame.payload (templateRecord 83 56 3 0)) p5Frame.cfg.layout.trackStat.numChannels = some 1 ∧
      (p5Frame.cfg.layout.trackStat.base : Int) + 1 * 40 = 56 := by decide +kernel

/-- P4's frame B: one observation, and no byte more. -/
theorem witness_RangeIsDecoded :
    p4Frame.holdsFrame (templateRecord 43 48 0 0) ∧ layoutFits p4Frame.cfg.layout = true ∧
      43#16 = p4Frame.cfg.msgidRange ∧ rangeMinLen p4Frame.cfg.layout.range ≤ 48 ∧
      payU16 (p4Frame.payload (templateRecord 43 48 0 0)) p4Frame.cfg.layout.range.numObservations = some 1#16 ∧
      p4Frame.cfg.layout.range.base + (1#16).toNat * 44 = 48 := by decide +kernel

/-- Two entries read one after the other, and entries that do not answer. -/
theorem witness_RepeatedGroupReadsItsEntriesInOrder :
    readGroup (fun e => some e) 68 2 12 = some [12, 80] ∧ readGroup (fun _ => (none : Option Nat)) 68 1 12 = none := by decide

/-- Reads that end at the buffer's end, and one past it; the same at a payload's end, an i16 that is negative among them. -/
theorem witness_ReadsAreLittleEndian :
    (let m := memoryOf [0x01, 0x02, 0x03, 0x04, 0x05, 0x06, 0x07, 0x08]
     Memory.wf m = true ∧ Memory.read16 m 6 = some 0x0807 ∧ Memory.read16 m 7 = none ∧ Memory.read32 m 4 = some 0x08070605 ∧
       Memory.read32 m 5 = none ∧ Memory.read64 m 0 = some 0x0807060504030201 ∧ Memory.read64 m 1 = none) ∧
    (let p : Payload := ⟨memoryOf (p1Header ++ [0x01, 0x02, 0x03, 0x04, 0x05, 0x06, 0xF9, 0xFF]), 8⟩
     Memory.wf p.mem = true ∧ p.mem.length = 28 + p.len ∧ payU8 p 7 = some 0xFF ∧ payU8 p 8 = none ∧
       payI16 p 6 = some (-7) ∧ payU16 p 6 = some 0xFFF9 ∧ payI16 p 7 = none ∧ payI32 p 4 = some (-457211) ∧
       payU32 p 5 = none ∧ payF64 p 0 = some 0xFFF9060504030201 ∧ payF64 p 1 = none) := by decide +kernel

/-- A NaN, both infinities, the largest finite number, the least normal one and both zeros. -/
theorem witness_SquareIsExact :
    f32IsNan 0x7FC00000 = true ∧ f32IsInf 0x7F800000 = true ∧ f32IsInf 0xFF800000 = true ∧
    (f32IsNan 0x7F7FFFFF = false ∧ f32IsInf 0x7F7FFFFF = false) ∧
    (f32IsNan 0x00800000 = false ∧ f32IsInf 0x00800000 = false) ∧
    (f32Significand 0x80000000 = 0 ∧ f32Exponent 0x80000000 = 0) := by decide

theorem witness_UnpackTakesTheNamedBits :
    defaultTrackStatusTable[15]? = some ⟨.channelAssignment, 31, 1⟩ ∧ BitSlice.inWord ⟨.channelAssignment, 31, 1⟩ = true := by
  decide

theorem witness_RepackRestoresTheWord : partitionsWord defaultTrackStatusTable = true := by decide

theorem witness_CrcIsLinear : ([0x01, 0x80] : List Byte).length = ([0x02, 0xFF] : List Byte).length := by decide

theorem witness_CrcDetectsEverySingleBit : 0 < ([0x00] : List Byte).length := by decide

end Sys2Proof.Machine
end

section
/-! SUPPORT. What an operation executed on its own can do, said once, and the statements about reset and the
configuration record (10_state R35, R39; 70 R342). -/

namespace Sys2Proof.Machine

/-! ## What an operation can do -/

/-- DECODE_NEXT starts a call, and only where none is active (R262, R272). -/
theorem execDecodeNext_eq_next {s t : State} (h : execDecodeNext s = .next t) :
    s.callActive = false ∧ t = { s with callActive := true, nRead := 0 } := by
  unfold execDecodeNext at h
  split_ifs at h with hc
  injection h with h
  exact ⟨Bool.eq_false_iff.2 hc, h.symm⟩

/-- The ways an operation executed on its own is carried out: by the call, by an event, by a byte, by the end of a frame,
or by the return of an internal function. -/
inductive ExecTaken (s t : State) : Prop
  | call (hc : s.callActive = false) (h : t = { s with callActive := true, nRead := 0 })
  | read (hc : s.callActive = true) (h : ReadTaken s t)
  | byte (v : Byte) (h : ByteTaken v s t)
  | timeout (h : t = s)
  | fail (h : t = s.endCall (.error .transportError))
  | crcMismatch (h : t = discarded .crcMismatch s)
  | ended (h : FrameEnded s t)
  | returned (r : FnResult) (k : Nat) (h : t = { s.return r with draw := k })

theorem exec_taken {i : Instr} {s t : State} (h : exec i s = .next t) : ExecTaken s t := by
  cases i with
  | decodeNext => obtain ⟨hc, ht⟩ := execDecodeNext_eq_next h; exact .call hc ht
  | read => obtain ⟨hc, hr⟩ := execRead_taken h; exact .read hc hr
  | evByte v => exact .byte v (byteStep_taken h)
  | evTimeout _ => injection h with h; exact .timeout h.symm
  | evFail _ => injection h with h; exact .fail h.symm
  | evReserved _ => simp [exec, execEvReserved] at h
  | syncMatch v => obtain ⟨_, _, _, _, _, rfl⟩ := execSyncMatch_eq_next h; exact .byte v (.stored s.hdr _ _ rfl)
  | syncComplete v => obtain ⟨_, _, _, rfl⟩ := execSyncComplete_eq_next h; exact .byte v (.stored s.hdr _ _ rfl)
  | syncMismatch v => exact .byte v (.dropped _ (by simp) (execSyncMismatch_eq_next h))
  | hdrlenOk v => obtain ⟨_, _, _, rfl⟩ := execHdrlenOk_eq_next h; exact .byte v (.stored _ _ _ rfl)
  | hdrlenBad v => exact .byte v (.dropped _ (by simp) (execHdrlenBad_eq_next h))
  | hdrByte v =>
    obtain ⟨_, _, _, _, _, _, ⟨rfl, _⟩ | ⟨c, rfl, hc⟩⟩ := execHdrByte_eq_next h
    · exact .byte v (.stored _ _ _ rfl)
    · exact .byte v (.dropped c (by rcases hc with rfl | rfl <;> simp) rfl)
  | hdrLast v => obtain ⟨_, _, _, _, _, _, _, rfl⟩ := execHdrLast_eq_next h; exact .byte v (.stored _ _ _ rfl)
  | payloadByte v => obtain ⟨_, _, _, _, rfl⟩ := execPayloadByte_eq_next h; exact .byte v (.stored s.hdr _ _ rfl)
  | payloadLast v => obtain ⟨_, _, rfl⟩ := execPayloadLast_eq_next h; exact .byte v (.stored s.hdr _ _ rfl)
  | crcByte v => obtain ⟨_, _, _, rfl⟩ := execCrcByte_eq_next h; exact .byte v (.crc _ rfl)
  | crcLast v => exact (execCrcLast_eq_next h).elim .crcMismatch .ended
  | frameEnd => exact (execFrameEnd_eq_next h).elim .crcMismatch .ended
  | dispatchBestpos ok => exact .ended (dispatchWith_ends (show execDispatchBestpos ok s = .next t from h))
  | dispatchRange ok => exact .ended (dispatchWith_ends (show execDispatchRange ok s = .next t from h))
  | dispatchTrackstat ok => exact .ended (dispatchWith_ends (show execDispatchTrackstat ok s = .next t from h))
  | dispatchBestxyz ok => exact .ended (dispatchWith_ends (show execDispatchBestxyz ok s = .next t from h))
  | dispatchSatxyz ok => exact .ended (dispatchWith_ends (show execDispatchSatxyz ok s = .next t from h))
  | dispatchUnknown _ => exact .ended (execDispatchUnknown_ends h)
  | unpack _ _ => injection h with h; exact .returned _ s.draw h.symm
  | crc32 _ => injection h with h; exact .returned _ s.draw h.symm
  | tableValue _ => injection h with h; exact .returned _ s.draw h.symm
  | bswap32 _ => injection h with h; exact .returned _ s.draw h.symm
  | square64 _ => injection h with h; exact .returned _ (s.draw + 1) h.symm

/-! ## The configuration record (R39) -/

theorem FrameEnded.cfg_eq {s t : State} (h : FrameEnded s t) : t.cfg = s.cfg := by
  obtain ⟨_, rfl⟩ | ⟨_, _, rfl⟩ | ⟨_, _, rfl⟩ := h <;> simp

theorem ByteTaken.cfg_eq {v : Byte} {s t : State} (h : ByteTaken v s t) : t.cfg = s.cfg := by
  cases h with
  | stored _ _ _ h => simp [h]
  | crc _ h => simp [h]
  | dropped _ _ h => simp [h]
  | ended h => exact h.cfg_eq

theorem ReadTaken.cfg_eq {s t : State} (h : ReadTaken s t) : t.cfg = s.cfg := by
  cases h with
  | ceiling _ h => simp [h]
  | byte _ _ h => exact (byteStep_taken h).cfg_eq.trans (request_cfg s)
  | timeout _ h => simp [h]
  | fail _ h => simp [h]

theorem StepTaken.cfg_eq {s t : State} (h : StepTaken s t) : t.cfg = s.cfg := by
  cases h with
  | idle _ h => rw [h]
  | call _ _ h => simp [h]
  | read _ h => exact h.cfg_eq

theorem ExecTaken.cfg_eq {s t : State} (h : ExecTaken s t) : t.cfg = s.cfg := by
  cases h with
  | call _ h => simp [h]
  | read _ h => exact h.cfg_eq
  | byte _ h => exact h.cfg_eq
  | timeout h => rw [h]
  | fail h => simp [h]
  | crcMismatch h => simp [h]
  | ended h => exact h.cfg_eq
  | returned _ _ h => simp [h]

/-- Settles O5: each way in which a step or an operation can go on keeps the configuration. -/
theorem configurationNeverChanges : Obligations.ConfigurationNeverChanges :=
  ⟨fun _ _ h => (step_taken h).2.cfg_eq, fun _ _ _ h => (exec_taken h).cfg_eq⟩

/-! ## Reset (R35, R342) -/

/-- READ below the ceiling takes the queue's next answer, counts it and does what it says (R263). -/
theorem exec_read_of_answer {s : State} {w : EventWord} {rest : List EventWord} (hc : s.callActive = true)
    (hn : s.nRead ≠ s.cfg.maxBytesPerCall) (ht : s.transport = w :: rest) :
    exec .read s = exec (decodeEvent w) { s with transport := rest, nRead := s.nRead + 1 } := by
  change execRead s = _
  rw [execRead_active hc, if_neg hn, runEvent_eq_exec, request_cons ht]

/-- Settles O1: the fields by definition; the new instance's count is 0, so its first READ is below any ceiling but 0 and
takes the answer that the transport kept. -/
theorem resetLeavesTheSpecsValues : Obligations.ResetLeavesTheSpecsValues := by
  refine ⟨fun c => ⟨resetWith_phase c, resetWith_buf c, resetWith_hdr c, resetWith_crcb c, resetWith_status c,
    resetWith_callActive c, resetWith_nRead c⟩, fun s c => ⟨rebuiltWith_phase s c, rebuiltWith_buf s c,
    rebuiltWith_hdr s c, rebuiltWith_crcb s c, rebuiltWith_status s c, rebuiltWith_callActive s c,
    rebuiltWith_nRead s c, rebuiltWith_cfg s c, rebuiltWith_transport s c, ?_⟩⟩
  intro w rest ht hceil
  exact exec_read_of_answer rfl hceil.symm ht

end Sys2Proof.Machine
end

section
/-! SUPPORT. The reserved event kind: what the event decoder and the reader make of it (30_encoding R101). -/

namespace Sys2Proof.Machine

/-- The kind 11 is none of the kinds of EV_BYTE, EV_TIMEOUT and EV_FAIL, so the decoder's last branch takes it (R101). -/
theorem decodeEvent_of_reservedKind {w : EventWord} (h : eventKind w = 3#2) :
    decodeEvent w = .evReserved (eventLow w) := by
  have notByte : eventKind w ≠ 0#2 := by rw [h]; decide
  have notTimeout : eventKind w ≠ 1#2 := by rw [h]; decide
  have notFail : eventKind w ≠ 2#2 := by rw [h]; decide
  rw [decodeEvent, if_neg notByte, if_neg notTimeout, if_neg notFail]

@[simp] theorem exec_evReserved (s : State) (x : Byte) : exec (.evReserved x) s = .refused .reservedEventKind := rfl

/-- Settles O27: the decoder's last branch is EV_RESERVED, and EV_RESERVED reads neither its operand nor the state. -/
theorem reservedEventKindIsRefused : Obligations.ReservedEventKindIsRefused :=
  ⟨fun _ hkind => decodeEvent_of_reservedKind hkind, exec_evReserved⟩

end Sys2Proof.Machine
end

section
/-! SUPPORT. The little-endian word as its four bytes (20_memory R54), and the byte swap on it (40_crc R124). -/

namespace Sys2Proof.Machine

/-! ## The four bytes of a word (R54) -/

/-- Each byte of the word holds its own eight bits; past the word both sides are false. -/
theorem getLsbD_le32 (b0 b1 b2 b3 : Byte) (i : Nat) :
    (le32 b0 b1 b2 b3).getLsbD i =
      if i < 8 then b0.getLsbD i else if i < 16 then b1.getLsbD (i - 8)
      else if i < 24 then b2.getLsbD (i - 16) else b3.getLsbD (i - 24) := by
  have noBit (b : Byte) (k : Nat) (h : 8 ≤ k) : b.getLsbD k = false := BitVec.getLsbD_of_ge b k h
  simp only [le32, BitVec.getLsbD_or, BitVec.getLsbD_shiftLeft, BitVec.getLsbD_setWidth]
  grind

/-- The four bytes of an assembled word are the bytes it was assembled from, each by the bits at its own place. -/
theorem extractLsb'_le32 (b0 b1 b2 b3 : Byte) :
    (le32 b0 b1 b2 b3).extractLsb' 0 8 = b0 ∧ (le32 b0 b1 b2 b3).extractLsb' 8 8 = b1 ∧
      (le32 b0 b1 b2 b3).extractLsb' 16 8 = b2 ∧ (le32 b0 b1 b2 b3).extractLsb' 24 8 = b3 := by
  refine ⟨?_, ?_, ?_, ?_⟩ <;> ext i hi <;> rw [BitVec.getElem_extractLsb', getLsbD_le32] <;> grind

/-- A word is assembled from its own four bytes. -/
theorem le32_extractLsb' (v : Word32) :
    le32 (v.extractLsb' 0 8) (v.extractLsb' 8 8) (v.extractLsb' 16 8) (v.extractLsb' 24 8) = v := by
  ext i hi
  rw [← BitVec.getLsbD_eq_getElem, getLsbD_le32]
  simp only [BitVec.getLsbD_extractLsb']
  grind

/-! ## The byte swap (R124) -/

/-- R124's formula is the assembly of the word's bytes, the highest one first. -/
theorem bswap32_eq_le32 (v : Word32) :
    bswap32 v = le32 (v.extractLsb' 24 8) (v.extractLsb' 16 8) (v.extractLsb' 8 8) (v.extractLsb' 0 8) := by
  have reverse (a b c d : Word32) : a ||| b ||| c ||| d = d ||| c ||| b ||| a := by
    rw [BitVec.or_comm _ d, BitVec.or_comm _ c, BitVec.or_comm a b, BitVec.or_assoc, BitVec.or_assoc]
  exact reverse _ _ _ _

@[simp] theorem bswap32_le32 (b0 b1 b2 b3 : Byte) : bswap32 (le32 b0 b1 b2 b3) = le32 b3 b2 b1 b0 := by
  obtain ⟨h0, h1, h2, h3⟩ := extractLsb'_le32 b0 b1 b2 b3
  rw [bswap32_eq_le32, h0, h1, h2, h3]

/-- Every word is the word of its four bytes, and reversing those twice gives them back. -/
@[simp] theorem bswap32_bswap32 (v : Word32) : bswap32 (bswap32 v) = v := by
  rw [bswap32_eq_le32 v, bswap32_le32, le32_extractLsb']

/-- Settles O60: reversal on the four bytes of a word, and so its own inverse; the two corner values are computed. -/
theorem byteSwapReverses : Obligations.ByteSwapReverses :=
  ⟨bswap32_le32, bswap32_bswap32, by decide, by decide⟩

end Sys2Proof.Machine
end

section
/-! SUPPORT. The synchronizer and the header parser, forwards: what each of their operations does in a state that
selects it (41_sync_header), and the statements about them. `_eq_next` in Laws/Bytes inverts the same operations. -/

namespace Sys2Proof.Machine

/-! ## The byte stored (R52) -/

/-- `push` with its address written out. -/
theorem push_of_length {s : State} {o : Nat} (v : Byte) (h : s.buf.length = o) :
    s.push v = { s with buf := s.buf ++ [(o, v)] } := by
  subst h; rfl

/-- An append inside the sync bytes and the header never exceeds the capacity `28 + PAYLOAD_CAP` (R50). -/
theorem memWrite_in_header {s : State} {o : Nat} (v : Byte) (h : s.buf.length = o) (ho : o < 28) :
    memWrite o v s = .next (s.push v) := by
  subst h
  exact memWrite_at_end (ho.trans_le (Nat.le_add_right 28 _))

/-! ## The register that the byte completes (R146, R148) -/

/-- The appended byte is the high byte of a 16-bit field that ends at it (R54). -/
theorem map_read16_append_last {m : Memory} {o : Nat} {v : Byte} (hw : Memory.wf m = true) (hl : m.length = o + 1)
    (write : Word16 → Header) :
    ∃ new, (Memory.read16 (Memory.append m v) o).map write = some new ∧
      ∃ b, Memory.read m o = some b ∧ new = write (le16 b v) := by
  obtain ⟨b, hb⟩ := memory_read_isSome hw (show o < m.length by omega)
  have hlow := memory_read_append_other m v (show o ≠ m.length by omega)
  have hlast : Memory.read (Memory.append m v) (o + 1) = some v := hl ▸ memory_read_append_self hw v
  exact ⟨_, by simp [Memory.read16, hlow, hlast, hb], b, hb, rfl⟩

/-- The appended byte is the highest byte of a 32-bit field that ends at it (R54). -/
theorem map_read32_append_last {m : Memory} {o : Nat} {v : Byte} (hw : Memory.wf m = true) (hl : m.length = o + 3)
    (write : Word32 → Header) :
    ∃ new, (Memory.read32 (Memory.append m v) o).map write = some new ∧
      ∃ b0 b1 b2, Memory.read m o = some b0 ∧ Memory.read m (o + 1) = some b1 ∧
        Memory.read m (o + 2) = some b2 ∧ new = write (le32 b0 b1 b2 v) := by
  obtain ⟨b0, h0⟩ := memory_read_isSome hw (show o < m.length by omega)
  obtain ⟨b1, h1⟩ := memory_read_isSome hw (show o + 1 < m.length by omega)
  obtain ⟨b2, h2⟩ := memory_read_isSome hw (show o + 2 < m.length by omega)
  have hlow (a : Nat) (ha : a < o + 3) := memory_read_append_other m v (show a ≠ m.length by omega)
  have hlast : Memory.read (Memory.append m v) (o + 3) = some v := hl ▸ memory_read_append_self hw v
  have hread : Memory.read32 (Memory.append m v) o = some (le32 b0 b1 b2 v) := by
    simp [Memory.read32, hlow, hlast, h0, h1, h2]
  exact ⟨_, by rw [hread]; rfl, b0, b1, b2, h0, h1, h2, rfl⟩

/-- Once the byte stands at the end of the buffer, the model's write of a header register succeeds and is the one that
`registerWritten` describes, which leaves offset 3 to HDRLEN_OK. -/
theorem headerAfter_append {m : Memory} {p : Nat} (v : Byte) (old : Header) (hw : Memory.wf m = true)
    (hl : m.length = p) (h3 : p ≠ 3) :
    ∃ new, headerAfter p v (Memory.append m v) old = some new ∧ registerWritten p v m old new := by
  fun_cases headerAfter p v (Memory.append m v) old with
  | case1 => exact absurd rfl h3
  | case2 => exact map_read16_append_last hw hl _
  | case3 => exact ⟨_, rfl, rfl⟩
  | case4 => exact ⟨_, rfl, rfl⟩
  | case5 => exact map_read16_append_last hw hl _
  | case6 => exact map_read16_append_last hw hl _
  | case7 => exact ⟨_, rfl, rfl⟩
  | case8 => exact ⟨_, rfl, rfl⟩
  | case9 => exact map_read16_append_last hw hl _
  | case10 => exact map_read32_append_last hw hl _
  | case11 => exact map_read32_append_last hw hl _
  | case12 => exact map_read16_append_last hw hl _
  | case13 => exact map_read16_append_last hw hl _
  | case14 => exact ⟨old, rfl, by simp [registerWritten, *]⟩

/-- A write of a register whose bytes the buffer holds goes on with the new bank. -/
theorem writeHeaderRegister_of_headerAfter {p : Nat} {v : Byte} {s : State} {new : Header}
    (h : headerAfter p v s.buf s.hdr = some new) : writeHeaderRegister p v s = .next { s with hdr := new } :=
  writeHeaderRegister_eq_next.2 ⟨new, h, rfl⟩

/-! ## The synchronizer (R141 to R143) -/

theorem exec_syncMatch {s : State} {p : Fin 3} {v : Byte} (hp : p.val < 2) (hph : s.phase = .sync p)
    (hl : s.buf.length = p.val) (hv : v = syncByte s.cfg p) :
    exec (.syncMatch v) s = .next ((s.push v).setPhase (.sync ⟨p.val + 1, by omega⟩)) := by
  change execSyncMatch v s = _
  simp only [execSyncMatch, hph, dif_pos hp, if_pos hv, memWrite_in_header v hl (by omega), andThen_next]

theorem exec_syncComplete {s : State} {v : Byte} (hph : s.phase = .sync 2) (hl : s.buf.length = 2)
    (hv : v = s.cfg.sync2) :
    exec (.syncComplete v) s = .next ((s.push v).setPhase (.header ⟨3, by omega⟩)) := by
  have hlast : (2 : Fin 3).val = 2 ∧ v = syncByte s.cfg 2 := ⟨rfl, hv⟩
  change execSyncComplete v s = _
  simp only [execSyncComplete, hph, if_pos hlast, memWrite_in_header v hl (by omega), andThen_next]

theorem exec_syncMismatch {s : State} {p : Fin 3} {v : Byte} (hph : s.phase = .sync p) (hv : v ≠ syncByte s.cfg p) :
    exec (.syncMismatch v) s = .next (discarded .syncLost s) := by
  change execSyncMismatch v s = _
  simp only [execSyncMismatch, hph, if_pos hv, discard]

/-! ## The header length (R144, R145) -/

theorem exec_hdrlenOk {s : State} (hph : s.phase = .header ⟨3, by omega⟩) (hl : s.buf.length = 3) :
    exec (.hdrlenOk 28#8) s = .next
      { s.push 28#8 with hdr := { s.hdr with headerLength := some 28#8 }, phase := .header ⟨4, by omega⟩ } := by
  change execHdrlenOk 28#8 s = _
  simp only [execHdrlenOk, hph, and_self, if_true, memWrite_in_header _ hl (by omega), andThen_next]
  rfl

theorem exec_hdrlenBad {s : State} {v : Byte} (hph : s.phase = .header ⟨3, by omega⟩) (hv : v ≠ 28#8) :
    exec (.hdrlenBad v) s = .next (discarded .invalidHeaderLength s) := by
  change execHdrlenBad v s = _
  simp only [execHdrlenBad, hph, true_and, if_pos hv, discard]

/-! ## The header bytes (R146 to R153) -/

/-- HDR_BYTE away from offset 9: the byte is stored, the bank written and the position advanced (R146, R147). -/
theorem exec_hdrByte {s : State} {p : HeaderPos} {v : Byte} {new : Header} (hp : 4 ≤ p.val ∧ p.val ≤ 26)
    (hph : s.phase = .header p) (h9 : p.val ≠ 9) (hl : s.buf.length = p.val)
    (hn : headerAfter p.val v (Memory.append s.buf v) s.hdr = some new) :
    exec (.hdrByte v) s = .next { s.push v with hdr := new, phase := .header ⟨p.val + 1, by omega⟩ } := by
  have hreg := writeHeaderRegister_of_headerAfter (s := s.push v) hn
  change execHdrByte v s = _
  simp only [execHdrByte, hph, dif_pos hp, if_neg h9, memWrite_in_header v hl (by omega), andThen_next, hreg]
  rfl

/-- HDR_BYTE at offset 9: the byte is stored, the message length written and then checked (R146, R148). -/
theorem exec_hdrByte_nine {s : State} {v : Byte} {new : Header} (hph : s.phase = .header ⟨9, by omega⟩)
    (hl : s.buf.length = 9) (hn : headerAfter 9 v (Memory.append s.buf v) s.hdr = some new) :
    exec (.hdrByte v) s = checkLength (.header ⟨10, by omega⟩) { s.push v with hdr := new } := by
  have hreg := writeHeaderRegister_of_headerAfter (s := s.push v) hn
  change execHdrByte v s = _
  simp [execHdrByte, hph, memWrite_in_header v hl (by omega), hreg]

theorem lengthError_zero (c : Config) : lengthError c 0#16 = some .zeroLengthMessage := rfl

theorem lengthError_tooLong {c : Config} {len : Word16} (h0 : len ≠ 0#16) (h : c.payloadCap < len.toNat) :
    lengthError c len = some .payloadTooLong := by
  rw [lengthError, if_neg h0, if_pos h]

/-- HDR_LAST with the message length written: as many payload bytes are still to come (R153). -/
theorem exec_hdrLast {s : State} {v : Byte} {new : Header} {len : Word16} (h : 1 ≤ len.toNat)
    (hph : s.phase = .header ⟨27, by omega⟩) (hl : s.buf.length = 27)
    (hn : headerAfter 27 v (Memory.append s.buf v) s.hdr = some new) (hm : new.messageLength = some len) :
    exec (.hdrLast v) s = .next { s.push v with hdr := new, phase := .payload ⟨len.toNat, h, by omega⟩ } := by
  have hreg := writeHeaderRegister_of_headerAfter (s := s.push v) hn
  change execHdrLast v s = _
  simp only [execHdrLast, hph, if_true, memWrite_in_header v hl (by omega), andThen_next, hreg, startPayload, hm,
    readRegister_some, dif_pos h]
  rfl

/-! ## The obligations -/

/-- Settles O34: the register write is the one described, and nothing after it looks at the bank. -/
theorem headerByteWritesItsRegister : Obligations.HeaderByteWritesItsRegister := by
  intro s p v hp hph h9 hw hl
  obtain ⟨new, hafter, hwritten⟩ := headerAfter_append v s.hdr hw hl (by omega)
  refine ⟨new, hwritten, ?_⟩
  rw [exec_hdrByte hp hph h9 hl hafter, push_of_length v hl]

/-- Settles O35: the length that the byte completes is the one checked, zero before the cap. -/
theorem messageLengthIsChecked : Obligations.MessageLengthIsChecked := by
  intro s b v hph hw hl hb
  obtain ⟨_, hafter, b', hb', rfl⟩ := headerAfter_append v s.hdr hw hl (by decide)
  obtain rfl : b = b' := Option.some.inj (hb.symm.trans hb')
  rw [exec_hdrByte_nine hph hl hafter, push_of_length v hl]
  refine ⟨fun h0 => ?zero, fun h0 hcap => ?tooLong, fun h0 hcap => ?stored⟩
  case zero => exact (checkLength_eq_next rfl).2 (.inl ⟨_, h0 ▸ lengthError_zero s.cfg, rfl⟩)
  case tooLong => exact (checkLength_eq_next rfl).2 (.inl ⟨_, lengthError_tooLong h0 hcap, rfl⟩)
  case stored =>
    have hpos : 1 ≤ (le16 b v).toNat := Nat.one_le_iff_ne_zero.2 fun h => h0 (BitVec.eq_of_toNat_eq h)
    exact (checkLength_eq_next rfl).2 (.inr ⟨lengthError_eq_none.2 ⟨hpos, hcap⟩, rfl⟩)

/-- Settles O36: writing the software version leaves the message length, which is then read. -/
theorem lastHeaderByteStartsThePayload : Obligations.LastHeaderByteStartsThePayload := by
  intro s b v len h hph hw hl hb hm
  obtain ⟨_, hafter, b', hb', rfl⟩ := headerAfter_append v s.hdr hw hl (by decide)
  obtain rfl : b = b' := Option.some.inj (hb.symm.trans hb')
  rw [exec_hdrLast h hph hl hafter hm, push_of_length v hl]

/-- Settles O32: `syncByte` names the byte expected at each position; a match appends it, a mismatch discards. -/
theorem synchronizerMatchesOrDrops : Obligations.SynchronizerMatchesOrDrops := by
  refine ⟨fun s p v h hph hl hv => ?_, fun s v hph hl hv => ?_, fun s p v hph hv => ?_⟩
  · have hsync : v = syncByte s.cfg p := by
      rw [hv, syncByte]
      split
      · rfl
      · rw [if_pos (by omega)]
    rw [exec_syncMatch h hph hl hsync, push_of_length v hl]
    rfl
  · rw [exec_syncComplete hph hl hv, push_of_length v hl]
    rfl
  · exact exec_syncMismatch hph hv

/-- Settles O33: 28 is stored as the header length; any other byte discards. -/
theorem headerLengthIsChecked : Obligations.HeaderLengthIsChecked := by
  refine fun s v hph => ⟨?_, exec_hdrlenBad hph⟩
  rintro hl rfl
  rw [exec_hdrlenOk hph hl, push_of_length _ hl]

end Sys2Proof.Machine
end

section
/-! SUPPORT. The payload, the CRC bytes and the end of a frame, forwards: what each of their operations does in a state
that selects it (42_payload_validate), and the statements about them. `_eq_next` in Laws/Bytes inverts the same
operations. -/

namespace Sys2Proof.Machine

/-! ## The payload (R171, R172) -/

/-- With the message length written and the buffer holding the bytes before, the next payload address is the buffer's
length, below its capacity, and the store is an append. -/
theorem storePayload_at_end {s : State} {r : Nat} {v : Byte} {len : Word16} (hm : s.hdr.messageLength = some len)
    (hpos : 1 ≤ r) (hr : r ≤ len.toNat) (hcap : len.toNat ≤ s.cfg.payloadCap)
    (hl : s.buf.length = 28 + len.toNat - r) : storePayload r v s = .next (s.push v) := by
  have hroom : s.buf.length < bufCapacity s.cfg := by
    unfold bufCapacity
    omega
  simp only [storePayload, hm, readRegister_some, if_pos (Nat.le_add_left_of_le hr), ← hl, memWrite_at_end hroom]

theorem exec_payloadByte {s t : State} {r : Remaining} {v : Byte} (hph : s.phase = .payload r) (h2 : 2 ≤ r.val)
    (hstore : storePayload r.val v s = .next t) :
    exec (.payloadByte v) s = .next (t.setPhase (.payload ⟨r.val - 1, by omega, by omega⟩)) := by
  change execPayloadByte v s = _
  simp only [execPayloadByte, hph, dif_pos h2, hstore, andThen_next]

theorem exec_payloadLast {s t : State} {r : Remaining} {v : Byte} (hph : s.phase = .payload r) (h1 : r.val = 1)
    (hstore : storePayload r.val v s = .next t) : exec (.payloadLast v) s = .next (t.setPhase (.crc 0)) := by
  rw [h1] at hstore
  change execPayloadLast v s = _
  simp only [execPayloadLast, hph, if_pos h1, hstore, andThen_next]

/-- Settles O37: the byte is appended by the same store, and only the phase that follows tells the last one apart. -/
theorem payloadBytesAreStored : Obligations.PayloadBytesAreStored := by
  intro s r v len hph hm hr hcap hl
  have hstore : storePayload r.val v s = .next { s with buf := s.buf ++ [(28 + len.toNat - r.val, v)] } :=
    push_of_length v hl ▸ storePayload_at_end hm r.property.1 hr hcap hl
  refine ⟨fun h2 => exec_payloadByte hph h2 hstore, fun h1 => ?_⟩
  rw [exec_payloadLast hph h1 hstore, h1]
  rfl

/-! ## The CRC bytes (R174) -/

/-- Settles O38: below the fourth CRC byte the operation is its guarded branch. -/
theorem crcBytesAreKeptApart : Obligations.CrcBytesAreKeptApart := by
  intro s p v h hph
  change execCrcByte v s = _
  simp only [execCrcByte, hph, dif_pos h]

/-! ## FRAME_END (R176 to R183) -/

/-- The decoder of message ids names the row that DISPATCH runs (R102, R200). -/
theorem exec_decodeMessageId (s : State) (id : Word16) (ok : Bool) :
    exec (decodeMessageId s.cfg id ok) s = dispatch id ok s := by
  unfold decodeMessageId dispatch
  split_ifs <;> rfl

theorem crcOkOf_eq_true {wire : Word32} {covered : List Byte} :
    crcOkOf wire covered = true ↔ wire = bswap32 (crc32 covered) := beq_iff_eq

theorem crcOkOf_eq_false {wire : Word32} {covered : List Byte} :
    crcOkOf wire covered = false ↔ wire ≠ bswap32 (crc32 covered) := beq_eq_false_iff_ne

/-- A frame that the policy drops (R181). -/
theorem exec_frameEnd_of_fails {s : State} {wire : Word32} (hw : wireCrc s.crcb = some wire)
    (hp : passesPolicy s.cfg (crcOkOf wire (Memory.bytes s.buf)) = false) :
    exec .frameEnd s = .next (discarded .crcMismatch s) := by
  change execFrameEnd s = _
  simp only [execFrameEnd, hw, hp, Bool.false_eq_true, if_false, discard]

/-- A frame that the policy lets through is dispatched on its message id, its crc_ok handed on (R180, R200). -/
theorem exec_frameEnd_of_passes {s : State} {wire : Word32} {id : Word16} (hw : wireCrc s.crcb = some wire)
    (hp : passesPolicy s.cfg (crcOkOf wire (Memory.bytes s.buf)) = true) (hid : s.hdr.messageId = some id) :
    exec .frameEnd s = exec (decodeMessageId s.cfg id (crcOkOf wire (Memory.bytes s.buf))) s := by
  rw [exec_decodeMessageId]
  change execFrameEnd s = _
  simp only [execFrameEnd, hw, hp, if_true, hid, readRegister_some]

/-- Settles O40: a match passes either policy; a mismatch is dropped by Strict and passed by Lenient. -/
theorem frameEndComparesAndDispatches : Obligations.FrameEndComparesAndDispatches := by
  intro s b0 b1 b2 b3 hb
  have hw : wireCrc s.crcb = some (le32 b0 b1 b2 b3) := by rw [hb]; rfl
  refine ⟨fun hne hstrict => ?strict, fun id hid => ⟨fun heq => ?passed, fun hne hlenient => ?lenient⟩⟩
  case strict =>
    refine exec_frameEnd_of_fails hw ?_
    rw [crcOkOf_eq_false.2 hne, passesPolicy, hstrict]
    rfl
  case passed =>
    have hok := crcOkOf_eq_true.2 heq
    rw [exec_frameEnd_of_passes hw (by rw [hok]; rfl) hid, hok]
  case lenient =>
    have hok := crcOkOf_eq_false.2 hne
    rw [exec_frameEnd_of_passes hw (by rw [hok, passesPolicy, hlenient]; rfl) hid, hok]

/-- An end of a frame leaves none in progress (R53, R183). -/
theorem FrameEnded.noFrame {s t : State} (h : FrameEnded s t) : t.noFrame := by
  obtain ⟨_, rfl⟩ | ⟨_, _, rfl⟩ | ⟨_, _, rfl⟩ := h <;> exact ⟨rfl, rfl, rfl, rfl⟩

/-- The status codes with which DISPATCH ends a frame (R27). -/
theorem FrameEnded.status_cases {s t : State} (h : FrameEnded s t) :
    t.status = 0x1#4 ∨ t.status = 0x2#4 ∨ t.status = 0x8#4 ∨ t.status = 0x9#4 ∨ t.status = 0xA#4 := by
  cases h with
  | dropped k h => simp [h, EventCode.bits]
  | failed e k h => cases e <;> simp [h, DecodeError.code, EventCode.bits]
  | delivered f k h => cases hok : f.crcOk <;> simp [h, hok, decodedCode, EventCode.bits]

/-- Settles O41: FRAME_END answers on a whole frame; it drops the frame, with 0x7, or DISPATCH ends it. -/
theorem frameEndAlwaysReturnsToSync : Obligations.FrameEndAlwaysReturnsToSync := by
  intro s h hf hc hl
  obtain ⟨t, ht⟩ := execFrameEnd_isNext hf hc hl
  refine ⟨t, ht, ?_⟩
  rcases execFrameEnd_eq_next ht with rfl | hended
  · exact ⟨⟨rfl, rfl, rfl, rfl⟩, .inr (.inr (.inl rfl))⟩
  · have hstatus := hended.status_cases
    exact ⟨hended.noFrame, by tauto⟩

end Sys2Proof.Machine
end

section
/-! SUPPORT. DISPATCH of a whole frame, forwards: what a decoder's answer makes of it (43_decoder R200 to R204, R252),
the repeated groups and the entries of the three variable-width records (R220 to R250), and the statements about them. -/

namespace Sys2Proof.Machine

/-! ## DISPATCH with a decoder's answer (R200, R252) -/

theorem passesPolicy_of {c : Config} {ok : Bool} (h : ok = true ∨ c.crcPolicy = .lenient) :
    passesPolicy c ok = true := by
  rcases h with rfl | h
  · rfl
  · simp [passesPolicy, h]

/-- The frame that DISPATCH delivers carries the registers, and the flags of the status word among them (R154, R208). -/
theorem delivers_frameResult {s : State} {h : HeaderRecord} (hr : headerRecord s.hdr = some h) (r : Record)
    (ok : Bool) : s.delivers (s.frameResult h r ok) := by
  unfold State.delivers
  rw [headerRecord_eq_some.1 hr]
  refine ⟨rfl, rfl, rfl, rfl, rfl, rfl, rfl, rfl, rfl, rfl, rfl, rfl, rfl, rfl, ?length, fun i b hb => ?flag⟩
  case length => simp [State.frameResult, rxStatus, unpack, rxBitTable]
  case flag => simp [State.frameResult, rxStatus, unpack, rxBitTable, unpackField, hb]

/-- The state after a frame has been delivered, field by field (R252). -/
theorem emitted_eq (f : DecodedFrame) (s : State) :
    emitted f s = { s with phase := .sync 0, buf := [], hdr := Header.unwritten, crcb := [],
                           status := if f.crcOk then 0x1#4 else 0x2#4, callActive := false,
                           results := s.results ++ [.decoded f] } := by
  have hstatus : (decodedCode f.crcOk).bits = if f.crcOk then 0x1#4 else 0x2#4 := by cases f.crcOk <;> rfl
  rw [← hstatus]
  rfl

section
variable {isId : Config → Word16 → Bool} {dec : State → Payload → Option (Except DecodeError Record)} {draws : Nat}
  {ok : Bool} {s : State} {h : HeaderRecord}

/-- A decoder's error is raised (R204, R251). -/
theorem dispatchWith_of_error {e : DecodeError} (hf : s.holdsFrame h) (hp : ok = true ∨ s.cfg.crcPolicy = .lenient)
    (hi : isId s.cfg h.messageId = true) (hd : dec s (s.payload h) = some (.error e)) :
    dispatchWith isId dec draws ok s = .next (raised e s) := by
  obtain ⟨_, hr, _⟩ := hf
  simp only [dispatchWith_written hr, hi, passesPolicy_of hp, hd, Bool.and_self, if_true]

/-- A decoder's record is delivered in a frame (R252). -/
theorem dispatchWith_of_record {r : Record} (hf : s.holdsFrame h) (hp : ok = true ∨ s.cfg.crcPolicy = .lenient)
    (hi : isId s.cfg h.messageId = true) (hd : dec s (s.payload h) = some (.ok r)) :
    dispatchWith isId dec draws ok s =
      .next { s with phase := .sync 0, buf := [], hdr := Header.unwritten, crcb := [],
                     status := if ok then 0x1#4 else 0x2#4, callActive := false, draw := s.draw + draws,
                     results := s.results ++ [.decoded (s.frameResult h r ok)] } := by
  obtain ⟨_, hr, _⟩ := hf
  simp only [dispatchWith_written hr, hi, passesPolicy_of hp, hd, Bool.and_self, if_true, emitted_eq]
  rfl

end

/-- Settles O43: the id is none of the five and the policy lets the frame through, so its guarded branch discards. -/
theorem unknownMessageIsDropped : Obligations.UnknownMessageIsDropped := by
  intro s id ok hid h1 h2 h3 h4 h5 hp
  have hunknown : isUnknownId s.cfg id = true := by simp [isUnknownId, h1, h2, h3, h4, h5]
  simp only [exec, execDispatchUnknown, hid, readRegister_some, hunknown, passesPolicy_of hp, Bool.and_self, if_true]
  rfl

/-! ### The DISPATCH rows of the variable-width records: each its id and its decoder (R200) -/

theorem exec_dispatchSatxyz (ok : Bool) (s : State) :
    exec (.dispatchSatxyz ok) s = dispatchWith (fun c id => id == c.msgidSatxyz)
      (fun t p => asRecord .satXyz (decSatXyz t.cfg.layout.satXyz p)) 0 ok s := rfl

theorem exec_dispatchTrackstat (ok : Bool) (s : State) :
    exec (.dispatchTrackstat ok) s = dispatchWith (fun c id => id == c.msgidTrackstat)
      (fun t p => asRecord .trackStat (decTrackStat t.cfg t.cfg.layout.trackStat p)) 0 ok s := rfl

theorem exec_dispatchRange (ok : Bool) (s : State) :
    exec (.dispatchRange ok) s = dispatchWith (fun c id => id == c.msgidRange)
      (fun t p => asRecord .range (decRange t.cfg t.cfg.layout.range p)) 0 ok s := rfl

/-! ## Repeated groups (R250) -/

theorem readGroup_succ_eq_some {α : Type} {entry : Nat → Option α} {stride n b : Nat} {x : α} {xs : List α} :
    readGroup entry stride (n + 1) b = some (x :: xs) ↔
      entry b = some x ∧ readGroup entry stride n (b + stride) = some xs := by
  simp [readGroup, Option.bind_eq_some_iff]

theorem readGroup_succ_ne_nil {α : Type} {entry : Nat → Option α} {stride n b : Nat} :
    readGroup entry stride (n + 1) b ≠ some [] := by
  simp [readGroup, Option.bind_eq_some_iff]

/-- A group is read as a list exactly when the list has the count's length and each of its entries is what the reader
gives at that entry's offset. -/
theorem readGroup_eq_some {α : Type} {entry : Nat → Option α} {stride n b : Nat} {es : List α} :
    readGroup entry stride n b = some es ↔
      es.length = n ∧ ∀ i : Nat, i < n → ∃ e, es[i]? = some e ∧ entry (b + i * stride) = some e := by
  induction n generalizing b es with
  | zero => simp [readGroup, eq_comm]
  | succ n ih =>
    cases es with
    | nil => simp [readGroup_succ_ne_nil]
    | cons x xs =>
      have hshift : ∀ i : Nat, b + (i + 1) * stride = b + stride + i * stride := fun i => by ring
      simp only [readGroup_succ_eq_some, ih, Nat.forall_lt_succ_left, List.length_cons, List.getElem?_cons_zero,
        List.getElem?_cons_succ, Option.some.injEq, exists_eq_left', Nat.zero_mul, Nat.add_zero, hshift,
        Nat.add_right_cancel_iff]
      exact and_left_comm

theorem entry_of_readGroup {α : Type} {entry : Nat → Option α} {stride n b i : Nat} {es : List α} {e : α}
    (hg : readGroup entry stride n b = some es) (he : es[i]? = some e) : entry (b + i * stride) = some e := by
  obtain ⟨hlen, hentries⟩ := readGroup_eq_some.1 hg
  obtain ⟨hi, _⟩ := List.getElem?_eq_some_iff.1 he
  obtain ⟨e', he', hread⟩ := hentries i (by omega)
  rw [hread, ← he', he]

/-- Settles O51: the strides by definition; a group is its entries by induction on the count. -/
theorem repeatedGroupReadsItsEntriesInOrder : Obligations.RepeatedGroupReadsItsEntriesInOrder :=
  ⟨⟨rfl, rfl, rfl⟩, fun _ _ _ _ _ _ => readGroup_eq_some⟩

/-! ## The fields of an entry and of TrackStat's fixed part (R220, R230, R240) -/

theorem satEntry_eq_some {l : SatXyzLayout} {p : Payload} {o : Nat} {e : SatEntry} (h : satEntry l p o = some e) :
    payU32 p (o + l.prn) = some e.prn ∧ payF64 p (o + l.x) = some e.x ∧ payF64 p (o + l.y) = some e.y ∧
      payF64 p (o + l.z) = some e.z ∧ payF64 p (o + l.clockCorrection) = some e.clockCorrection ∧
      payF64 p (o + l.ionosphericCorrection) = some e.ionosphericCorrection ∧
      payF64 p (o + l.troposphericCorrection) = some e.troposphericCorrection := by
  simp only [satEntry, Option.bind_eq_bind, Option.bind_eq_some_iff, Option.pure_def, Option.some.injEq] at h
  obtain ⟨_, h1, _, h2, _, h3, _, h4, _, h5, _, h6, _, h7, rfl⟩ := h
  exact ⟨h1, h2, h3, h4, h5, h6, h7⟩

theorem trackEntry_eq_some {c : Config} {l : TrackStatLayout} {p : Payload} {o : Nat} {e : TrackEntry}
    (h : trackEntry c l p o = some e) :
    payI16 p (o + l.prn) = some e.prn ∧ payU32 p (o + l.trackingStatus) = some e.trackingStatus.raw ∧
      e.trackingStatus.fields = unpack e.trackingStatus.raw c.trackStatusTable ∧
      payF64 p (o + l.pseudorange) = some e.pseudorange ∧ payF32 p (o + l.doppler) = some e.doppler ∧
      payF32 p (o + l.cn0) = some e.cn0 ∧ payF32 p (o + l.locktime) = some e.locktime ∧
      payF32 p (o + l.psrResidual) = some e.psrResidual ∧ payF32 p (o + l.psrWeight) = some e.psrWeight := by
  simp only [trackEntry, Option.bind_eq_bind, Option.bind_eq_some_iff, Option.pure_def, Option.some.injEq] at h
  obtain ⟨_, h1, _, h2, _, h3, _, h4, _, h5, _, h6, _, h7, _, h8, rfl⟩ := h
  exact ⟨h1, h2, rfl, h3, h4, h5, h6, h7, h8⟩

theorem rangeEntry_eq_some {c : Config} {l : RangeLayout} {p : Payload} {o : Nat} {e : RangeEntry}
    (h : rangeEntry c l p o = some e) :
    payU16 p (o + l.prn) = some e.prn ∧ payF64 p (o + l.pseudorange) = some e.pseudorange ∧
      payF32 p (o + l.pseudorangeStdev) = some e.pseudorangeStdev ∧ payF64 p (o + l.adr) = some e.adr ∧
      payF32 p (o + l.adrStdev) = some e.adrStdev ∧ payF32 p (o + l.doppler) = some e.doppler ∧
      payF32 p (o + l.cn0) = some e.cn0 ∧ payF32 p (o + l.locktime) = some e.locktime ∧
      payU32 p (o + l.trackingStatus) = some e.trackingStatus.raw ∧
      e.trackingStatus.fields = unpack e.trackingStatus.raw c.trackStatusTable := by
  simp only [rangeEntry, Option.bind_eq_bind, Option.bind_eq_some_iff, Option.pure_def, Option.some.injEq] at h
  obtain ⟨_, h1, _, h2, _, h3, _, h4, _, h5, _, h6, _, h7, _, h8, _, h9, rfl⟩ := h
  exact ⟨h1, h2, h3, h4, h5, h6, h7, h8, h9, rfl⟩

theorem readTrackFixed_eq_some {l : TrackStatLayout} {p : Payload} {r : TrackStat} (h : readTrackFixed l p = some r) :
    payUnsigned p l.solutionStatus = some r.solutionStatus ∧ payUnsigned p l.positionType = some r.positionType ∧
      payF32 p l.elevationCutoff = some r.elevationCutoff ∧ payI32 p l.numChannels = some r.numChannels := by
  simp only [readTrackFixed, Option.bind_eq_bind, Option.bind_eq_some_iff, Option.pure_def, Option.some.injEq] at h
  obtain ⟨_, h1, _, h2, _, h3, _, h4, rfl⟩ := h
  exact ⟨h1, h2, h3, h4⟩

/-! ## The decoders past the minimum length: the count decides (R221, R231, R241, R251) -/

theorem decSatXyz_of_count {l : SatXyzLayout} {p : Payload} {n : Word32} (hm : satXyzMinLen l ≤ p.len)
    (hn : payU32 p l.numSatellites = some n) :
    decSatXyz l p =
      if p.len < l.base + n.toNat * satStride then some (.error .countFieldOutOfBounds)
      else (readGroup (satEntry l p) satStride n.toNat l.base).map fun es => .ok ⟨n, es⟩ := by
  simp only [decSatXyz, if_neg hm.not_gt, hn]

theorem decTrackStat_of_fixed {c : Config} {l : TrackStatLayout} {p : Payload} {r : TrackStat}
    (hm : trackStatMinLen l ≤ p.len) (hr : readTrackFixed l p = some r) :
    decTrackStat c l p =
      if r.numChannels < 0 ∨ (p.len : Int) < l.base + r.numChannels * trackStride then
        some (.error .countFieldOutOfBounds)
      else
        (readGroup (trackEntry c l p) trackStride r.numChannels.toNat l.base).map fun es =>
          .ok { r with channels := es } := by
  simp only [decTrackStat, if_neg hm.not_gt, hr]

theorem decRange_of_count {c : Config} {l : RangeLayout} {p : Payload} {n : Word16} (hm : rangeMinLen l ≤ p.len)
    (hn : payU16 p l.numObservations = some n) :
    decRange c l p =
      if p.len < l.base + n.toNat * rangeStride then some (.error .countFieldOutOfBounds)
      else (readGroup (rangeEntry c l p) rangeStride n.toNat l.base).map fun es => .ok ⟨n, es⟩ := by
  simp only [decRange, if_neg hm.not_gt, hn]

/-- On a whole payload TrackStat's fixed part is read, with the count that stands at its offset (R231, R232). -/
theorem readTrackFixed_of_count {l : TrackStatLayout} {p : Payload} {n : Int} (hw : Memory.wf p.mem = true)
    (hl : p.mem.length = 28 + p.len) (hm : trackStatMinLen l ≤ p.len) (hn : payI32 p l.numChannels = some n) :
    ∃ r, readTrackFixed l p = some r ∧ r.numChannels = n := by
  obtain ⟨r, hr⟩ := readTrackFixed_isSome hw hl l hm
  obtain ⟨_, _, _, hcount⟩ := readTrackFixed_eq_some hr
  exact ⟨r, hr, Option.some.inj (hcount.symm.trans hn)⟩

/-- Settles O45: past the minimum length each decoder answers the count's error, which DISPATCH raises. -/
theorem countOutOfBoundsIsRaised : Obligations.CountOutOfBoundsIsRaised := by
  intro s h ok hf hp
  refine ⟨fun n hid hm hn hb => ?satXyz, fun n hid hm hn hb => ?trackStat, fun n hid hm hn hb => ?range⟩
  case satXyz =>
    have hd : decSatXyz s.cfg.layout.satXyz (s.payload h) = some (.error .countFieldOutOfBounds) := by
      rw [decSatXyz_of_count hm hn]; exact if_pos hb
    rw [exec_dispatchSatxyz]
    exact dispatchWith_of_error (e := .countFieldOutOfBounds) hf hp (beq_iff_eq.2 hid)
      (congrArg (asRecord .satXyz) hd)
  case trackStat =>
    have ⟨hw, _, hl⟩ := hf
    obtain ⟨r, hr, rfl⟩ := readTrackFixed_of_count hw hl hm hn
    have hd : decTrackStat s.cfg s.cfg.layout.trackStat (s.payload h) = some (.error .countFieldOutOfBounds) := by
      rw [decTrackStat_of_fixed hm hr]; exact if_pos hb
    rw [exec_dispatchTrackstat]
    exact dispatchWith_of_error (e := .countFieldOutOfBounds) hf hp (beq_iff_eq.2 hid)
      (congrArg (asRecord .trackStat) hd)
  case range =>
    have hd : decRange s.cfg s.cfg.layout.range (s.payload h) = some (.error .countFieldOutOfBounds) := by
      rw [decRange_of_count hm hn]; exact if_pos hb
    rw [exec_dispatchRange]
    exact dispatchWith_of_error (e := .countFieldOutOfBounds) hf hp (beq_iff_eq.2 hid)
      (congrArg (asRecord .range) hd)

/-! ## Frames whose entries fit (R222, R233, R243) -/

section
variable {p : Payload} (hw : Memory.wf p.mem = true) (hl : p.mem.length = 28 + p.len) {c : Layout}
  (hf : layoutFits c = true)
include hw hl hf

theorem decSatXyz_of_fits {n : Word32} (hm : satXyzMinLen c.satXyz ≤ p.len)
    (hn : payU32 p c.satXyz.numSatellites = some n) (hb : c.satXyz.base + n.toNat * satStride ≤ p.len) :
    ∃ es, readGroup (satEntry c.satXyz p) satStride n.toNat c.satXyz.base = some es ∧
      decSatXyz c.satXyz p = some (.ok ⟨n, es⟩) := by
  obtain ⟨es, hg⟩ := readGroup_isSome _ _ fun i hi => satEntry_isSome hw hl hf hi hb
  exact ⟨es, hg, by rw [decSatXyz_of_count hm hn, if_neg hb.not_gt, hg]; rfl⟩

theorem decTrackStat_of_fits (cfg : Config) {r : TrackStat} (hm : trackStatMinLen c.trackStat ≤ p.len)
    (hr : readTrackFixed c.trackStat p = some r) (h0 : 0 ≤ r.numChannels)
    (hb : c.trackStat.base + r.numChannels * trackStride ≤ (p.len : Int)) :
    ∃ es, readGroup (trackEntry cfg c.trackStat p) trackStride r.numChannels.toNat c.trackStat.base = some es ∧
      decTrackStat cfg c.trackStat p = some (.ok { r with channels := es }) := by
  have hb' : c.trackStat.base + r.numChannels.toNat * trackStride ≤ p.len := by
    simp only [trackStride] at hb ⊢; omega
  obtain ⟨es, hg⟩ := readGroup_isSome _ _ fun i hi => trackEntry_isSome hw hl cfg hf hi hb'
  refine ⟨es, hg, ?_⟩
  rw [decTrackStat_of_fixed hm hr, if_neg (not_or.2 ⟨h0.not_gt, hb.not_gt⟩), hg]
  rfl

theorem decRange_of_fits (cfg : Config) {n : Word16} (hm : rangeMinLen c.range ≤ p.len)
    (hn : payU16 p c.range.numObservations = some n) (hb : c.range.base + n.toNat * rangeStride ≤ p.len) :
    ∃ es, readGroup (rangeEntry cfg c.range p) rangeStride n.toNat c.range.base = some es ∧
      decRange cfg c.range p = some (.ok ⟨n, es⟩) := by
  obtain ⟨es, hg⟩ := readGroup_isSome _ _ fun i hi => rangeEntry_isSome hw hl cfg hf hi hb
  exact ⟨es, hg, by rw [decRange_of_count hm hn, if_neg hb.not_gt, hg]; rfl⟩

end

/-- Settles O48: the group is read, its entries are the ones at their offsets, and DISPATCH delivers the record. -/
theorem satXyzIsDecoded : Obligations.SatXyzIsDecoded := by
  intro s h ok n hframe hp hf hid hm hn hb
  have ⟨hw, hr, hl⟩ := hframe
  obtain ⟨es, hg, hd⟩ := decSatXyz_of_fits hw hl hf hm hn hb
  refine ⟨es, s.frameResult h (.satXyz ⟨n, es⟩) ok, delivers_frameResult hr _ _, rfl, rfl, rfl, ?length, ?entries,
    ?run⟩
  case length => exact (readGroup_eq_some.1 hg).1
  case entries => exact fun i e he => satEntry_eq_some (entry_of_readGroup hg he)
  case run =>
    rw [exec_dispatchSatxyz]
    exact dispatchWith_of_record hframe hp (beq_iff_eq.2 hid) (congrArg (asRecord .satXyz) hd)

/-- Settles O49: the fixed part and the group are read, the channels are the ones at their offsets, and DISPATCH
delivers the record. -/
theorem trackStatIsDecoded : Obligations.TrackStatIsDecoded := by
  intro s h ok n hframe hp hf hid hm hn h0 hb
  have ⟨hw, hr, hl⟩ := hframe
  obtain ⟨r, hfixed, rfl⟩ := readTrackFixed_of_count hw hl hm hn
  obtain ⟨es, hg, hd⟩ := decTrackStat_of_fits hw hl hf s.cfg hm hfixed h0 hb
  obtain ⟨hsolution, htype, hcutoff, _⟩ := readTrackFixed_eq_some hfixed
  refine ⟨{ r with channels := es }, s.frameResult h (.trackStat { r with channels := es }) ok,
    delivers_frameResult hr _ _, rfl, rfl, rfl, rfl, ?length, ⟨hsolution, htype, hcutoff, ?channels⟩, ?run⟩
  case length => rw [(readGroup_eq_some.1 hg).1, Int.toNat_of_nonneg h0]
  case channels => exact fun i e he => trackEntry_eq_some (entry_of_readGroup hg he)
  case run =>
    rw [exec_dispatchTrackstat]
    exact dispatchWith_of_record hframe hp (beq_iff_eq.2 hid) (congrArg (asRecord .trackStat) hd)

/-- Settles O50: the group is read, its observations are the ones at their offsets, and DISPATCH delivers the record. -/
theorem rangeIsDecoded : Obligations.RangeIsDecoded := by
  intro s h ok n hframe hp hf hid hm hn hb
  have ⟨hw, hr, hl⟩ := hframe
  obtain ⟨es, hg, hd⟩ := decRange_of_fits hw hl hf s.cfg hm hn hb
  refine ⟨es, s.frameResult h (.range ⟨n, es⟩) ok, delivers_frameResult hr _ _, rfl, rfl, rfl, ?length, ?entries,
    ?run⟩
  case length => exact (readGroup_eq_some.1 hg).1
  case entries => exact fun i e he => rangeEntry_eq_some (entry_of_readGroup hg he)
  case run =>
    rw [exec_dispatchRange]
    exact dispatchWith_of_record hframe hp (beq_iff_eq.2 hid) (congrArg (asRecord .range) hd)

end Sys2Proof.Machine
end

section
/-! SUPPORT. The transport reader: the event that each kind of answer spells, what READ does with it, and the call that
is refused (44_reader R263, R267 to R269, R272). -/

namespace Sys2Proof.Machine

/-! ## The event an answer spells (R100) -/

theorem decodeEvent_of_byteKind {w : EventWord} (h : eventKind w = 0#2) : decodeEvent w = .evByte (eventLow w) := by
  rw [decodeEvent, if_pos h]

theorem decodeEvent_of_timeoutKind {w : EventWord} (h : eventKind w = 1#2) :
    decodeEvent w = .evTimeout (eventLow w) := by
  have notByte : eventKind w ≠ 0#2 := by rw [h]; decide
  rw [decodeEvent, if_neg notByte, if_pos h]

theorem decodeEvent_of_failKind {w : EventWord} (h : eventKind w = 2#2) : decodeEvent w = .evFail (eventLow w) := by
  have notByte : eventKind w ≠ 0#2 := by rw [h]; decide
  have notTimeout : eventKind w ≠ 1#2 := by rw [h]; decide
  rw [decodeEvent, if_neg notByte, if_neg notTimeout, if_pos h]

/-! ## The events that no byte comes with (R267, R268) -/

@[simp] theorem exec_evTimeout (s : State) (x : Byte) : exec (.evTimeout x) s = .next s := rfl

@[simp] theorem exec_evFail (s : State) (x : Byte) :
    exec (.evFail x) s = .next (s.endCall (.error .transportError)) := rfl

/-- Settles O25: EV_TIMEOUT answers the state it is given. -/
theorem timeoutChangesNothing : Obligations.TimeoutChangesNothing := exec_evTimeout

/-! ## READ (R263, R269) -/

theorem exec_read_at_ceiling {s : State} (hc : s.callActive = true) (hn : s.nRead = s.cfg.maxBytesPerCall) :
    exec .read s = .next (s.endCall .noFrameYet) := by
  change execRead s = _
  rw [execRead_active hc, if_pos hn]

/-- Settles O23: at the ceiling no request is made; below it READ is the answer's event on the counted request, and the
answer's kind says which event that is. -/
theorem readTakesAndCountsOneAnswer : Obligations.ReadTakesAndCountsOneAnswer := by
  intro s hc
  refine ⟨exec_read_at_ceiling hc, fun w rest hn ht => ?_⟩
  rw [exec_read_of_answer hc hn ht]
  refine ⟨fun byteKind => ?byte, fun timeoutKind => ?timeout, fun failKind => ?fail, fun reservedKind => ?reserved⟩
  case byte => rw [decodeEvent_of_byteKind byteKind]; rfl
  case timeout => rw [decodeEvent_of_timeoutKind timeoutKind, exec_evTimeout]
  case fail => rw [decodeEvent_of_failKind failKind, exec_evFail]; rfl
  case reserved => rw [decodeEvent_of_reservedKind reservedKind, exec_evReserved]

/-! ## The reentrant call (R272) -/

theorem execDecodeNext_active {s : State} (hc : s.callActive = true) : execDecodeNext s = .refused .reentrantCall := by
  rw [execDecodeNext, if_pos hc]

/-- A host that does not serialize its calls makes one at once. -/
theorem host_of_not_hostSerialized {s : State} (h : s.hostSerialized = false) :
    ∃ rest, s.host = .immediate :: rest := by
  unfold State.hostSerialized at h
  split at h
  next rest hhost => exact ⟨rest, hhost⟩
  next => cases h

/-- Settles O21: the step in which the host calls at once is DECODE_NEXT, which refuses while a call is active. -/
theorem reentrantCallIsRefused : Obligations.ReentrantCallIsRefused := by
  refine fun s hc => ⟨execDecodeNext_active hc, fun hi hh => ?_⟩
  obtain ⟨rest, hhost⟩ := host_of_not_hostSerialized hh
  have hstep : step s = execDecodeNext { s with host := rest } := by rw [step_eq, if_pos hi, hhost]
  exact hstep.trans (execDecodeNext_active hc)

end Sys2Proof.Machine
end

section
/-! SUPPORT. The invariants of 10_state R32, clause by clause, and that every operation keeps them. -/

namespace Sys2Proof.Machine

/-! ## The clauses of the invariant, as statements -/

/-- R32 (f): a sync byte that the buffer holds is the configuration's. -/
theorem syncStored_iff {s : State} :
    s.syncStored = true ↔ ∀ (p : Fin 3) (v : Byte), Memory.read s.buf p.val = some v → v = syncByte s.cfg p := by
  simp only [Fin.forall_fin_succ, State.syncStored, syncByte]
  rcases h0 : Memory.read s.buf 0 <;> rcases h1 : Memory.read s.buf 1 <;> rcases h2 : Memory.read s.buf 2 <;>
    simp [h0, h1, h2, and_assoc]

/-- R32 (e): what the checks of R144, R149 and R150 let through. -/
theorem lengthsChecked_iff {s : State} :
    s.lengthsChecked = true ↔ (∀ v, s.hdr.headerLength = some v → v = 28#8) ∧
      ∀ len, s.hdr.messageLength = some len → lengthError s.cfg len = none := by
  simp only [State.lengthsChecked, lengthError_eq_none]
  rcases s.hdr.headerLength <;> rcases s.hdr.messageLength <;> simp

theorem framed_sync {s : State} {p : Fin 3} (h : s.phase = .sync p) :
    s.framed = true ↔ s.buf.length = p.val ∧ s.crcb.length = 0 := by
  simp [State.framed, h]

theorem framed_header {s : State} {p : HeaderPos} (h : s.phase = .header p) :
    s.framed = true ↔ s.buf.length = p.val ∧ s.crcb.length = 0 := by
  simp [State.framed, h]

theorem framed_payload {s : State} {r : Remaining} (h : s.phase = .payload r) :
    s.framed = true ↔ ∃ len, s.hdr.messageLength = some len ∧ r.val ≤ len.toNat ∧
      s.buf.length + r.val = 28 + len.toNat ∧ s.crcb.length = 0 := by
  simp only [State.framed, h]
  rcases s.hdr.messageLength <;> simp

theorem framed_crc {s : State} {p : Fin 4} (h : s.phase = .crc p) :
    s.framed = true ↔ ∃ len, s.hdr.messageLength = some len ∧ s.buf.length = 28 + len.toNat ∧
      s.crcb.length = p.val := by
  simp only [State.framed, h]
  rcases s.hdr.messageLength <;> simp

/-! ## States that hold no frame -/

/-- With no frame held, every clause about the frame is empty: only the read count and the status code are left. -/
theorem State.noFrame.inv {s : State} (h : s.noFrame) (hn : s.nRead ≤ s.cfg.maxBytesPerCall)
    (hs : s.status.toNat ≤ 10) : s.Inv := by
  obtain ⟨hph, hb, hc, hh⟩ := h
  refine ⟨by rw [hb]; rfl, by rw [hb, hh]; rfl, (framed_sync hph).2 (by simp [hb, hc]), ?_, ?_, hn, hs⟩
  · simp [lengthsChecked_iff, hh, Header.unwritten]
  · simp [syncStored_iff, hb]

/-- Settles O2: after a reset no frame is held, no read is counted, and the status code is 0x0. -/
theorem invariantHoldsAtReset : Obligations.InvariantHoldsAtReset :=
  ⟨fun c => State.noFrame.inv (s := State.resetWith c) ⟨rfl, rfl, rfl, rfl⟩ (Nat.zero_le _) (Nat.zero_le _),
    fun s c => State.noFrame.inv (s := s.rebuiltWith c) ⟨rfl, rfl, rfl, rfl⟩ (Nat.zero_le _) (Nat.zero_le _)⟩

theorem eventCode_bits_le (c : EventCode) : c.bits.toNat ≤ 10 := by cases c <;> decide

theorem discarded_inv {s : State} (c : EventCode) (h : s.Inv) : (discarded c s).Inv := by
  obtain ⟨_, _, _, _, _, hn, _⟩ := h
  exact State.noFrame.inv ⟨rfl, rfl, rfl, rfl⟩ hn (eventCode_bits_le c)

/-! ## What the frame operations keep of the fields that are not the frame's -/

theorem FrameEnded.nRead_eq {s t : State} (h : FrameEnded s t) : t.nRead = s.nRead := by
  obtain ⟨_, rfl⟩ | ⟨_, _, rfl⟩ | ⟨_, _, rfl⟩ := h <;> rfl

theorem FrameEnded.inv {s t : State} (h : FrameEnded s t) (hs : s.Inv) : t.Inv := by
  obtain ⟨_, _, _, _, _, hn, _⟩ := hs
  refine h.noFrame.inv (by rw [h.nRead_eq, h.cfg_eq]; exact hn) ?_
  rcases h.status_cases with e | e | e | e | e <;> rw [e] <;> decide

/-! ## A stored byte -/

/-- The length that a buffer determines changes with the bytes at 8 and 9 only, and the first of them does not yet
determine it (R24). -/
theorem headerOf_append_messageLength {m : Memory} (v : Byte) (hw : Memory.wf m = true) (h9 : m.length ≠ 9) :
    (headerOf (Memory.append m v)).messageLength = (headerOf m).messageLength := by
  by_cases h8 : m.length = 8
  · have hm : Memory.read16 m 8 = none := memory_read16_none hw (by omega)
    have ha : Memory.read16 (Memory.append m v) 8 = none :=
      memory_read16_none (memory_append_wf v hw) (by simp; omega)
    exact ha.trans hm.symm
  · exact memory_read16_append m v (by omega) (by omega)

/-- A byte stored with the register it completes keeps the invariant when the byte and the length are the ones that the
checks let through, and the new phase counts the bytes (R32, R141 to R153, R171). -/
theorem push_inv {s : State} {v : Byte} {ph : Phase} {k : Nat} (h : s.Inv)
    (hsync : ∀ p : Fin 3, s.buf.length = p.val → v = syncByte s.cfg p) (h3 : s.buf.length = 3 → v = 28#8)
    (h9 : s.buf.length = 9 →
      ∀ len, (headerOf (Memory.append s.buf v)).messageLength = some len → lengthError s.cfg len = none)
    (hf : ({ s.push v with hdr := headerOf (Memory.append s.buf v), phase := ph, draw := k }).framed = true) :
    ({ s.push v with hdr := headerOf (Memory.append s.buf v), phase := ph, draw := k }).Inv := by
  obtain ⟨hw, hh, _, hc, hst, hn, hs⟩ := h
  have hread (o : Nat) (x : Byte) (hx : Memory.read (Memory.append s.buf v) o = some x) :
      (o = s.buf.length ∧ x = v) ∨ Memory.read s.buf o = some x := by
    by_cases ho : o = s.buf.length
    · subst ho
      rw [memory_read_append_self hw] at hx
      exact .inl ⟨rfl, (Option.some.inj hx).symm⟩
    · exact .inr (by rwa [memory_read_append_other _ _ ho] at hx)
  rw [lengthsChecked_iff, hh] at hc
  rw [syncStored_iff] at hst
  refine ⟨memory_append_wf v hw, rfl, hf, lengthsChecked_iff.2 ⟨fun x hx => ?_, fun len hlen => ?_⟩,
    syncStored_iff.2 fun p x hx => ?_, hn, hs⟩
  · rcases hread 3 x hx with ⟨e, rfl⟩ | e
    · exact h3 e.symm
    · exact hc.1 x e
  · by_cases e9 : s.buf.length = 9
    · exact h9 e9 len hlen
    · exact hc.2 len ((headerOf_append_messageLength v hw e9).symm.trans hlen)
  · rcases hread p.val x hx with ⟨e, rfl⟩ | e
    · exact hsync p e.symm
    · exact hst p x e

/-! ## The byte operations -/

theorem execSyncMatch_inv {v : Byte} {s t : State} (hs : s.Inv) (h : execSyncMatch v s = .next t) : t.Inv := by
  obtain ⟨p, hp, hph, hv, hl, rfl⟩ := execSyncMatch_eq_next h
  have ⟨hw, hh, hf, _⟩ := hs
  have hbank : s.hdr = headerOf (Memory.append s.buf v) := by
    rw [hh, headerOf_append_sync v hw (by omega), headerOf_sync hw (by omega)]
  have hstored := push_inv (v := v) (ph := .sync ⟨p.val + 1, by omega⟩) (k := s.draw) hs
    (fun q hq => by rw [hv, Fin.ext (hl.symm.trans hq)]) (fun h3 => by omega) (fun h9 => by omega)
    ((framed_sync rfl).2 (by simpa [hl] using ((framed_sync hph).1 hf).2))
  rwa [← hbank] at hstored

theorem execSyncComplete_inv {v : Byte} {s t : State} (hs : s.Inv) (h : execSyncComplete v s = .next t) : t.Inv := by
  obtain ⟨hph, hv, hl, rfl⟩ := execSyncComplete_eq_next h
  have ⟨hw, hh, hf, _⟩ := hs
  have hbank : s.hdr = headerOf (Memory.append s.buf v) := by
    rw [hh, headerOf_append_sync v hw (by omega), headerOf_sync hw (by omega)]
  have hstored := push_inv (v := v) (ph := .header ⟨3, by omega⟩) (k := s.draw) hs
    (fun q hq => by obtain rfl : q = 2 := Fin.ext (hq.symm.trans hl); exact hv) (fun h3 => by omega)
    (fun h9 => by omega) ((framed_header rfl).2 (by simpa [hl] using ((framed_sync hph).1 hf).2))
  rwa [← hbank] at hstored

theorem execHdrlenOk_inv {v : Byte} {s t : State} (hs : s.Inv) (h : execHdrlenOk v s = .next t) : t.Inv := by
  obtain ⟨hv, hph, hl, rfl⟩ := execHdrlenOk_eq_next h
  have ⟨hw, hh, hf, _⟩ := hs
  have hbank := headerOf_append_header v hw hl (by omega) (by omega)
  rw [← hh] at hbank
  have hstored := push_inv (v := v) (ph := .header ⟨4, by omega⟩) (k := s.draw) hs (fun q hq => by omega) (fun _ => hv)
    (fun h9 => by omega) ((framed_header rfl).2 (by simpa [hl] using ((framed_header hph).1 hf).2))
  rwa [← Option.some.inj hbank] at hstored

theorem execHdrByte_inv {v : Byte} {s t : State} (hs : s.Inv) (h : execHdrByte v s = .next t) : t.Inv := by
  obtain ⟨p, hp, new, hph, hl, hnew, ⟨rfl, h9⟩ | ⟨c, rfl, _⟩⟩ := execHdrByte_eq_next h
  · have ⟨hw, hh, hf, _⟩ := hs
    have hbank := headerOf_append_header v hw hl (by omega) (by omega)
    rw [← hh, hnew] at hbank
    obtain rfl := Option.some.inj hbank
    refine push_inv (k := s.draw) hs (fun q hq => by omega) (fun h3 => by omega) (fun e9 len hlen => ?_)
      ((framed_header rfl).2 (by simpa [hl] using ((framed_header hph).1 hf).2))
    obtain ⟨len', hlen', hcheck⟩ := h9 (by omega)
    rw [hlen'] at hlen
    rwa [← Option.some.inj hlen]
  · exact discarded_inv c hs

theorem execHdrLast_inv {v : Byte} {s t : State} (hs : s.Inv) (h : execHdrLast v s = .next t) : t.Inv := by
  obtain ⟨len, hlen, new, hph, hl, hnew, hval, rfl⟩ := execHdrLast_eq_next h
  have ⟨hw, hh, hf, _⟩ := hs
  have hbank := headerOf_append_header v hw hl (by omega) (by omega)
  rw [← hh, hnew] at hbank
  obtain rfl := Option.some.inj hbank
  have hm : (headerOf (Memory.append s.buf v)).messageLength = some len := by
    obtain ⟨b0, b1, _, _, e⟩ := memory_read16_isSome (memory_append_wf v hw) (o := 8) (by simp; omega)
    have e' : (headerOf (Memory.append s.buf v)).messageLength = some (le16 b0 b1) := e
    rw [e'] at hval ⊢
    exact congrArg some hval
  refine push_inv hs (fun q hq => by omega) (fun h3 => by omega) (fun h9 => by omega)
    ((framed_payload rfl).2 ⟨len, hm, le_rfl, ?_⟩)
  simpa [hl] using ((framed_header hph).1 hf).2

/-- The length is written in `Payload`, so its value is the register's and no free value is taken (R22, R32). -/
theorem payload_length {s : State} {r : Remaining} (hs : s.Inv) (hph : s.phase = .payload r) :
    ∃ len, s.hdr.messageLength = some len ∧ r.val ≤ len.toNat ∧ s.buf.length + r.val = 28 + len.toNat ∧
      s.crcb.length = 0 ∧ len.toNat ≤ s.cfg.payloadCap := by
  obtain ⟨_, _, hf, hc, _⟩ := hs
  obtain ⟨len, hm, hr, hl, hcrc⟩ := (framed_payload hph).1 hf
  exact ⟨len, hm, hr, hl, hcrc, (lengthError_eq_none.1 ((lengthsChecked_iff.1 hc).2 len hm)).2⟩

/-- A payload byte writes no register: the bank stays the one that the buffer determines. -/
theorem payload_push_inv {s : State} {v : Byte} {ph : Phase} {k : Nat} {r : Remaining} (hs : s.Inv)
    (hph : s.phase = .payload r)
    (hf : ({ s.push v with phase := ph, draw := k }).framed = true) :
    ({ s.push v with phase := ph, draw := k }).Inv := by
  obtain ⟨len, _, hr, hl, _⟩ := payload_length hs hph
  have ⟨_, hh, _⟩ := hs
  have hbank : headerOf (Memory.append s.buf v) = s.hdr := by rw [hh, headerOf_append_payload v (by omega)]
  have hstored := push_inv (v := v) (ph := ph) (k := k) hs (fun q hq => by omega) (fun h3 => by omega)
    (fun h9 => by omega)
  rw [hbank] at hstored
  exact hstored hf

theorem execPayloadByte_inv {v : Byte} {s t : State} (hs : s.Inv) (h : execPayloadByte v s = .next t) : t.Inv := by
  obtain ⟨r, hr, hph, _, rfl⟩ := execPayloadByte_eq_next h
  obtain ⟨len, hm, hrl, hl, hc, _⟩ := payload_length hs hph
  refine payload_push_inv hs hph ((framed_payload rfl).2 ⟨len, hm, ?_, ?_, hc⟩)
  · simp only; omega
  · simp only [push_buf, memory_append_length]; omega

theorem execPayloadLast_inv {v : Byte} {s t : State} (hs : s.Inv) (h : execPayloadLast v s = .next t) : t.Inv := by
  obtain ⟨hph, _, rfl⟩ := execPayloadLast_eq_next h
  obtain ⟨len, hm, _, hl, hc, _⟩ := payload_length hs hph
  refine payload_push_inv hs hph ((framed_crc (p := 0) rfl).2 ⟨len, hm, ?_, hc⟩)
  simp only [push_buf, memory_append_length]; omega

theorem execCrcByte_inv {v : Byte} {s t : State} (hs : s.Inv) (h : execCrcByte v s = .next t) : t.Inv := by
  obtain ⟨p, hp, hph, rfl⟩ := execCrcByte_eq_next h
  obtain ⟨hw, hh, hf, hc, hst, hn, hcode⟩ := hs
  obtain ⟨len, hm, hl, hcrc⟩ := (framed_crc hph).1 hf
  exact ⟨hw, hh, (framed_crc rfl).2 ⟨len, hm, hl, by simp [hcrc]⟩, hc, hst, hn, hcode⟩

theorem execCrcLast_inv {v : Byte} {s t : State} (hs : s.Inv) (h : execCrcLast v s = .next t) : t.Inv := by
  rcases execCrcLast_eq_next h with rfl | h
  · exact discarded_inv _ hs
  · exact h.inv hs

/-! ## BYTE_STEP, READ and every operation -/

theorem byteStep_inv {v : Byte} {s t : State} (hs : s.Inv) (h : byteStep v s = .next t) : t.Inv := by
  unfold byteStep at h
  split at h
  · split_ifs at h
    · exact execSyncComplete_inv hs h
    · exact execSyncMatch_inv hs h
    · rw [execSyncMismatch_eq_next h]; exact discarded_inv _ hs
  · split_ifs at h
    · exact execHdrlenOk_inv hs h
    · rw [execHdrlenBad_eq_next h]; exact discarded_inv _ hs
    · exact execHdrLast_inv hs h
    · exact execHdrByte_inv hs h
  · split_ifs at h
    · exact execPayloadLast_inv hs h
    · exact execPayloadByte_inv hs h
  · split_ifs at h
    · exact execCrcLast_inv hs h
    · exact execCrcByte_inv hs h

/-- Below the ceiling the request may be counted (R29). -/
theorem request_inv {s : State} (hs : s.Inv) (hn : s.nRead ≠ s.cfg.maxBytesPerCall) : (request s).2.Inv := by
  obtain ⟨hw, hh, hf, hc, hst, hle, hcode⟩ := hs
  refine ⟨by simpa using hw, by simpa using hh, ?_, ?_, ?_, by simp; omega, by simpa using hcode⟩
  · simpa [State.framed] using hf
  · simpa [State.lengthsChecked] using hc
  · simpa [State.syncStored] using hst

theorem ReadTaken.inv {s t : State} (h : ReadTaken s t) (hs : s.Inv) : t.Inv := by
  cases h with
  | ceiling _ h => rw [h]; exact hs
  | byte hn v h => exact byteStep_inv (request_inv hs hn) h
  | timeout hn h => rw [h]; exact request_inv hs hn
  | fail hn h => rw [h]; exact request_inv hs hn

/-- A call's start resets the read count and touches nothing else of the invariant (R262). -/
theorem call_inv {s : State} (hs : s.Inv) (rest : List HostCall) :
    ({ s with host := rest, callActive := true, nRead := 0 }).Inv := by
  obtain ⟨hw, hh, hf, hc, hst, _, hcode⟩ := hs
  exact ⟨hw, hh, hf, hc, hst, Nat.zero_le _, hcode⟩

theorem StepTaken.inv {s t : State} (h : StepTaken s t) (hs : s.Inv) : t.Inv := by
  cases h with
  | idle _ h => rwa [h]
  | call _ rest h => rw [h]; exact call_inv hs rest
  | read _ h => exact h.inv hs

theorem exec_inv {i : Instr} {s t : State} (hs : s.Inv) (h : exec i s = .next t) : t.Inv := by
  cases i with
  | decodeNext => obtain ⟨_, rfl⟩ := execDecodeNext_eq_next h; exact call_inv hs s.host
  | read => exact (execRead_taken h).2.inv hs
  | evByte v => exact byteStep_inv hs h
  | evTimeout _ => injection h with h; rwa [← h]
  | evFail _ => injection h with h; rw [← h]; exact hs
  | evReserved _ => simp at h
  | syncMatch v => exact execSyncMatch_inv hs h
  | syncComplete v => exact execSyncComplete_inv hs h
  | syncMismatch v => rw [execSyncMismatch_eq_next h]; exact discarded_inv _ hs
  | hdrlenOk v => exact execHdrlenOk_inv hs h
  | hdrlenBad v => rw [execHdrlenBad_eq_next h]; exact discarded_inv _ hs
  | hdrByte v => exact execHdrByte_inv hs h
  | hdrLast v => exact execHdrLast_inv hs h
  | payloadByte v => exact execPayloadByte_inv hs h
  | payloadLast v => exact execPayloadLast_inv hs h
  | crcByte v => exact execCrcByte_inv hs h
  | crcLast v => exact execCrcLast_inv hs h
  | frameEnd =>
    rcases execFrameEnd_eq_next h with rfl | h
    · exact discarded_inv _ hs
    · exact h.inv hs
  | dispatchBestpos ok => exact (dispatchWith_ends (show execDispatchBestpos ok s = .next t from h)).inv hs
  | dispatchRange ok => exact (dispatchWith_ends (show execDispatchRange ok s = .next t from h)).inv hs
  | dispatchTrackstat ok => exact (dispatchWith_ends (show execDispatchTrackstat ok s = .next t from h)).inv hs
  | dispatchBestxyz ok => exact (dispatchWith_ends (show execDispatchBestxyz ok s = .next t from h)).inv hs
  | dispatchSatxyz ok => exact (dispatchWith_ends (show execDispatchSatxyz ok s = .next t from h)).inv hs
  | dispatchUnknown _ => exact (execDispatchUnknown_ends h).inv hs
  | unpack _ _ => injection h with h; rw [← h]; exact hs
  | crc32 _ => injection h with h; rw [← h]; exact hs
  | tableValue _ => injection h with h; rw [← h]; exact hs
  | bswap32 _ => injection h with h; rw [← h]; exact hs
  | square64 _ => injection h with h; rw [← h]; exact hs

/-- Settles O3: a step holds the state, starts a call or reads; each operation keeps every clause. -/
theorem everyStepKeepsTheInvariant : Obligations.EveryStepKeepsTheInvariant :=
  ⟨fun _ _ hs h => (step_taken h).2.inv hs, fun _ _ _ hs h => exec_inv hs h⟩

end Sys2Proof.Machine
end

section
/-! SUPPORT. Where a byte, a READ and a step are carried out, and where a step is refused (44_reader R276). -/

namespace Sys2Proof.Machine

/-! ## A byte (R264) -/

theorem byteStep_eq_exec (v : Byte) (s : State) : byteStep v s = exec (decodeByteOp s.cfg s.phase v) s := by
  unfold byteStep decodeByteOp
  cases s.phase <;> simp only <;> split_ifs <;> rfl

/-- Settles O28: BYTE_STEP's table is the decoder's. -/
theorem evByteRunsTheSelectedOperation : Obligations.EvByteRunsTheSelectedOperation :=
  fun s v => byteStep_eq_exec v s

/-- Once the header has arrived, every register is written. -/
theorem headerRecord_headerOf {m : Memory} (hw : Memory.wf m = true) (hl : 28 ≤ m.length) :
    ∃ h, headerRecord (headerOf m) = some h := by
  have r8 (o : Nat) (ho : o < 28) := memory_read_isSome hw (show o < m.length by omega)
  have r16 (o : Nat) (ho : o + 2 ≤ 28) : ∃ x, Memory.read16 m o = some x := by
    obtain ⟨_, _, _, _, e⟩ := memory_read16_isSome hw (show o + 2 ≤ m.length by omega)
    exact ⟨_, e⟩
  have r32 (o : Nat) (ho : o + 4 ≤ 28) := memory_read32_isSome hw (show o + 4 ≤ m.length by omega)
  obtain ⟨_, h3⟩ := r8 3 (by omega); obtain ⟨_, h4⟩ := r16 4 (by omega); obtain ⟨_, h6⟩ := r8 6 (by omega)
  obtain ⟨_, h7⟩ := r8 7 (by omega); obtain ⟨_, h8⟩ := r16 8 (by omega); obtain ⟨_, h10⟩ := r16 10 (by omega)
  obtain ⟨_, h12⟩ := r8 12 (by omega); obtain ⟨_, h13⟩ := r8 13 (by omega); obtain ⟨_, h14⟩ := r16 14 (by omega)
  obtain ⟨_, h16⟩ := r32 16 (by omega); obtain ⟨_, h20⟩ := r32 20 (by omega); obtain ⟨_, h24⟩ := r16 24 (by omega)
  obtain ⟨_, h26⟩ := r16 26 (by omega)
  simp only [headerOf, h3, h4, h6, h7, h8, h10, h12, h13, h14, h16, h20, h24, h26]
  exact ⟨_, rfl⟩

/-- In `Crc` the buffer holds a whole frame (R32). -/
theorem crc_holdsFrame {s : State} {p : Fin 4} (hs : s.Inv) (hph : s.phase = .crc p) :
    (∃ h, s.holdsFrame h) ∧ s.crcb.length = p.val := by
  obtain ⟨hw, hh, hf, _⟩ := hs
  obtain ⟨len, hm, hl, hc⟩ := (framed_crc hph).1 hf
  obtain ⟨h, hr⟩ := headerRecord_headerOf hw (by omega)
  rw [← hh] at hr
  have hlen : s.hdr.messageLength = some h.messageLength := by rw [headerRecord_eq_some.1 hr]
  rw [hm] at hlen
  exact ⟨⟨h, hw, hr, by rw [hl, Option.some.inj hlen]⟩, hc⟩

/-- CRC_LAST is FRAME_END on the appended byte (R175). -/
theorem exec_crcLast {s : State} (hph : s.phase = .crc 3) (v : Byte) :
    exec (.crcLast v) s = exec .frameEnd { s with crcb := s.crcb ++ [v] } := by
  change execCrcLast v s = execFrameEnd _
  simp [execCrcLast, hph]

/-- On a whole frame the fourth CRC byte completes with no frame held (R183). -/
theorem exec_crcLast_isNext {s : State} {h : HeaderRecord} (hph : s.phase = .crc 3) (hf : s.holdsFrame h)
    (hc : s.crcb.length = 3) (hl : layoutFits s.cfg.layout = true) (v : Byte) :
    ∃ t, exec (.crcLast v) s = .next t ∧ t.noFrame := by
  obtain ⟨t, ht, hnone, _⟩ := frameEndAlwaysReturnsToSync { s with crcb := s.crcb ++ [v] } h hf (by simp [hc]) hl
  exact ⟨t, (exec_crcLast hph v).trans ht, hnone⟩

/-- Settles O39: CRC_LAST's guarded branch is FRAME_END, which returns to `Sync{0}` whatever the outcome. -/
theorem fourthCrcByteEndsTheFrame : Obligations.FourthCrcByteEndsTheFrame :=
  fun _ v _ hph => ⟨exec_crcLast hph v, fun hf hc hl => exec_crcLast_isNext hph hf hc hl v⟩

/-- HDR_BYTE is carried out at every offset: at 9 the checked length discards or goes on (R146, R149, R150). -/
theorem exec_hdrByte_isNext {s : State} {p : HeaderPos} (hs : s.Inv) (hph : s.phase = .header p)
    (hp : 4 ≤ p.val ∧ p.val ≤ 26) (v : Byte) : ∃ t, exec (.hdrByte v) s = .next t := by
  have ⟨hw, hh, hf, _⟩ := hs
  obtain ⟨hl, _⟩ := (framed_header hph).1 hf
  have hbank := headerOf_append_header v hw hl (by omega) (by omega)
  rw [← hh] at hbank
  by_cases h9 : p.val = 9
  · obtain rfl : p = ⟨9, by decide⟩ := Subtype.ext h9
    obtain ⟨len, hm⟩ := headerAfter_messageLength hbank
    rw [exec_hdrByte_nine hph hl hbank]
    rcases he : lengthError s.cfg len with _ | c
    · exact ⟨_, (checkLength_eq_next hm).2 (.inr ⟨he, rfl⟩)⟩
    · exact ⟨_, (checkLength_eq_next hm).2 (.inl ⟨c, he, rfl⟩)⟩
  · exact ⟨_, exec_hdrByte hp hph h9 hl hbank⟩

/-- HDR_LAST is carried out: the length that the buffer determines has passed the check at offset 9 (R153). -/
theorem exec_hdrLast_isNext {s : State} {p : HeaderPos} (hs : s.Inv) (hph : s.phase = .header p) (hp : p.val = 27)
    (v : Byte) : ∃ t, exec (.hdrLast v) s = .next t := by
  obtain rfl : p = ⟨27, by decide⟩ := Subtype.ext hp
  have ⟨hw, hh, hf, hc, _⟩ := hs
  obtain ⟨hl, _⟩ := (framed_header hph).1 hf
  have hbank := headerOf_append_header v hw hl (by omega) (by omega)
  rw [← hh] at hbank
  obtain ⟨b0, b1, _, _, hread⟩ := memory_read16_isSome hw (show 8 + 2 ≤ s.buf.length by omega)
  have hm : s.hdr.messageLength = some (le16 b0 b1) := by rw [hh]; exact hread
  have hpos := (lengthError_eq_none.1 ((lengthsChecked_iff.1 hc).2 _ hm)).1
  refine ⟨_, exec_hdrLast hpos hph hl hbank ?_⟩
  rw [headerOf_append_messageLength v hw (by omega), ← hh, hm]

theorem byteStep_isNext {s : State} (hs : s.Inv) (hfit : layoutFits s.cfg.layout = true) (v : Byte) :
    ∃ t, byteStep v s = .next t := by
  have ⟨_, _, hf, _⟩ := hs
  rw [byteStep_eq_exec]
  rcases hph : s.phase with p | p | r | p <;> unfold decodeByteOp <;> simp only
  case sync =>
    obtain ⟨hl, _⟩ := (framed_sync hph).1 hf
    split_ifs with hv hp
    · obtain rfl : p = 2 := Fin.ext hp
      exact ⟨_, exec_syncComplete hph hl hv⟩
    · exact ⟨_, exec_syncMatch (by omega) hph hl hv⟩
    · exact ⟨_, exec_syncMismatch hph hv⟩
  case header =>
    obtain ⟨hl, _⟩ := (framed_header hph).1 hf
    split_ifs with h3 hv h27
    · obtain rfl : p = ⟨3, by decide⟩ := Subtype.ext h3
      exact ⟨_, hv ▸ exec_hdrlenOk hph hl⟩
    · obtain rfl : p = ⟨3, by decide⟩ := Subtype.ext h3
      exact ⟨_, exec_hdrlenBad hph hv⟩
    · exact exec_hdrLast_isNext hs hph h27 v
    · exact exec_hdrByte_isNext hs hph (by omega) v
  case payload =>
    obtain ⟨len, hm, hr, hl, _, hcap⟩ := payload_length hs hph
    have hstore := storePayload_at_end (v := v) hm r.property.1 hr hcap (by omega)
    split_ifs with h1
    · exact ⟨_, exec_payloadLast hph h1 hstore⟩
    · exact ⟨_, exec_payloadByte hph (by omega) hstore⟩
  case crc =>
    split_ifs with h3
    · obtain rfl : p = 3 := Fin.ext h3
      obtain ⟨⟨h, hframe⟩, hc⟩ := crc_holdsFrame hs hph
      obtain ⟨t, ht, _⟩ := exec_crcLast_isNext hph hframe hc hfit v
      exact ⟨t, ht⟩
    · exact ⟨_, crcBytesAreKeptApart s p v (by omega) hph⟩

/-! ## READ (R263) -/

theorem eventKind_cases (w : EventWord) :
    eventKind w = 0#2 ∨ eventKind w = 1#2 ∨ eventKind w = 2#2 ∨ eventKind w = 3#2 := by
  generalize eventKind w = k
  revert k; decide

/-- The transport's answer is of the reserved kind exactly when the queue's next word is: a free answer never is. -/
theorem request_isReserved (s : State) : eventKind (request s).1 = 3#2 ↔ s.answerIsEvent = false := by
  unfold State.answerIsEvent
  rcases ht : s.transport with _ | ⟨w, rest⟩
  · rw [request_nil ht]
    cases Config.freeAnswer s.draw <;> simp [encodeTransport]
  · simp [request_cons ht]

theorem exec_read_isNext {s : State} (hs : s.Inv) (hfit : layoutFits s.cfg.layout = true) (hc : s.callActive = true)
    (ha : s.nRead ≠ s.cfg.maxBytesPerCall → s.answerIsEvent = true) : ∃ t, exec .read s = .next t := by
  by_cases hn : s.nRead = s.cfg.maxBytesPerCall
  · exact ⟨_, exec_read_at_ceiling hc hn⟩
  have hevent : eventKind (request s).1 ≠ 3#2 := fun e =>
    Bool.false_ne_true (((request_isReserved s).1 e).symm.trans (ha hn))
  change ∃ t, execRead s = .next t
  rw [execRead_active hc, if_neg hn, runEvent_eq_exec]
  rcases eventKind_cases (request s).1 with e | e | e | e
  · rw [decodeEvent_of_byteKind e]
    exact byteStep_isNext (request_inv hs hn) (by rwa [request_cfg]) _
  · rw [decodeEvent_of_timeoutKind e]; exact ⟨_, rfl⟩
  · rw [decodeEvent_of_failKind e]; exact ⟨_, rfl⟩
  · exact absurd e hevent

theorem exec_read_reserved {s : State} (hc : s.callActive = true) (hn : s.nRead ≠ s.cfg.maxBytesPerCall)
    (ha : s.answerIsEvent = false) : exec .read s = .refused .reservedEventKind := by
  change execRead s = _
  rw [execRead_active hc, if_neg hn, runEvent_eq_exec, decodeEvent_of_reservedKind ((request_isReserved s).2 ha),
    exec_evReserved]

/-- Settles O29: every byte operation that a legal state selects is carried out, and READ runs one or needs none. -/
theorem everyByteIsTaken : Obligations.EveryByteIsTaken :=
  fun _ hs hfit => ⟨byteStep_isNext hs hfit, fun hc ha => exec_read_isNext hs hfit hc fun _ => ha⟩

/-! ## Steps (R262, R263, R276, R314) -/

/-- Settles O22: the ids are looked at before anything else. -/
theorem equalMessageIdsAreRefused : Obligations.EqualMessageIdsAreRefused := by
  intro s h
  rw [step_eq, if_neg (by simp [h])]

/-- In a call that no reentrant call disturbs, a step is READ (R263). -/
theorem step_in_call {s : State} (hi : idsDistinct s.cfg = true) (hh : s.hostSerialized = true)
    (hc : s.callActive = true) : step s = exec .read s := by
  unfold step
  rw [fetch_in_call hi hh hc]
  exact fetchRead_run hc

/-- With no call active a step starts the host's next call, or holds the state (R262, R314). -/
theorem step_no_call {s : State} (hi : idsDistinct s.cfg = true) (hc : s.callActive = false) :
    (∀ call rest, s.host = call :: rest →
      step s = exec .decodeNext { s with host := rest } ∧
        step s = .next { s with host := rest, callActive := true, nRead := 0 }) ∧
    (s.host = [] → step s = .next s) := by
  have hnotActive : ¬ s.callActive = true := by simp [hc]
  refine ⟨fun call rest hh => ?_, fun hh => by rw [step_eq, if_pos hi, hh]; exact if_neg hnotActive⟩
  have hstep : step s = exec .decodeNext { s with host := rest } := by
    rw [step_eq, if_pos hi, hh]
    cases call
    · exact if_neg hnotActive
    · rfl
  exact ⟨hstep, hstep.trans (if_neg hnotActive)⟩

/-- Settles O20: DECODE_NEXT's open branch; and with no reentrant call a step of an active call is READ. -/
theorem decodeNextStartsACallOfReads : Obligations.DecodeNextStartsACallOfReads :=
  ⟨fun _ hc => if_neg (by simp [hc]), fun _ => step_in_call⟩

/-- What a step of a legal state answers, by the tests in their order: the ids, a reentrant call, the answer's kind. -/
inductive StepAnswers (s : State) : Prop
  | equalIds (hi : idsDistinct s.cfg = false) (h : step s = .refused .equalMessageIds)
  | reentrant (hi : idsDistinct s.cfg = true) (hh : s.hostSerialized = false) (hc : s.callActive = true)
      (h : step s = .refused .reentrantCall)
  | reserved (hi : idsDistinct s.cfg = true) (hh : s.hostSerialized = true) (hc : s.callActive = true)
      (hn : s.nRead ≠ s.cfg.maxBytesPerCall) (ha : s.answerIsEvent = false)
      (h : step s = .refused .reservedEventKind)
  | taken (hi : idsDistinct s.cfg = true) (hh : s.callActive = true → s.hostSerialized = true)
      (ha : s.callActive = true → s.nRead ≠ s.cfg.maxBytesPerCall → s.answerIsEvent = true)
      (t : State) (h : step s = .next t)

theorem step_answers {s : State} (hs : s.Inv) (hfit : layoutFits s.cfg.layout = true) : StepAnswers s := by
  rcases hi : idsDistinct s.cfg
  · exact .equalIds hi (equalMessageIdsAreRefused s hi)
  rcases hc : s.callActive
  · obtain ⟨hcall, hidle⟩ := step_no_call hi hc
    rcases hhost : s.host with _ | ⟨call, rest⟩
    · exact .taken hi (by simp [hc]) (by simp [hc]) _ (hidle hhost)
    · exact .taken hi (by simp [hc]) (by simp [hc]) _ (hcall call rest hhost).2
  rcases hh : s.hostSerialized
  · exact .reentrant hi hh hc ((reentrantCallIsRefused s hc).2 hi hh)
  by_cases hr : s.nRead ≠ s.cfg.maxBytesPerCall ∧ s.answerIsEvent = false
  · exact .reserved hi hh hc hr.1 hr.2 ((step_in_call hi hh hc).trans (exec_read_reserved hc hr.1 hr.2))
  · have ha : s.nRead ≠ s.cfg.maxBytesPerCall → s.answerIsEvent = true := by simpa using hr
    obtain ⟨t, ht⟩ := exec_read_isNext hs hfit hc ha
    exact .taken hi (fun _ => hh) (fun _ => ha) t ((step_in_call hi hh hc).trans ht)

/-- Settles O4: each answer that a step of a legal state can give excludes the conditions of the others. -/
theorem stepsStopOnlyWhereTheSpecRefuses : Obligations.StepsStopOnlyWhereTheSpecRefuses := by
  intro s hs hfit
  cases step_answers hs hfit with
  | equalIds hi h => simp [h, hi]
  | reentrant hi hh hc h => simp [h, hi, hh, hc]
  | reserved hi hh hc hn ha h => simp [h, hi, hh, hc, hn, ha]
  | taken hi hh ha t h =>
    refine ⟨by simp [h], by simp [h, hi], ?_, ?_, by simp [h]⟩
    · simp only [h, reduceCtorEq, false_iff, not_and]
      exact fun _ hser hc => by simp [hh hc] at hser
    · simp only [h, reduceCtorEq, false_iff, not_and]
      exact fun _ _ hc hn hevent => by simp [ha hc hn] at hevent

end Sys2Proof.Machine
end

section
/-! SUPPORT. What a step leaves of the buffer, the status register, the queues and the results (20_memory R52, R53;
10_state R27; 44_reader R266), and the end of every call (R271). -/

namespace Sys2Proof.Machine

/-! ## The buffer (R52, R53) -/

/-- The buffer grows only at its end, and every byte before it is kept. -/
theorem read_of_append {m n : Memory} {v : Byte} (hw : Memory.wf m = true) (h : n = Memory.append m v) :
    n.length = m.length + 1 ∧ (∃ x, Memory.read n m.length = some x) ∧
      ∀ a, a ≠ m.length → Memory.read n a = Memory.read m a := by
  subst h
  exact ⟨memory_append_length m v, ⟨v, memory_read_append_self hw v⟩, fun a ha => memory_read_append_other m v ha⟩

theorem ByteTaken.buf_cases {v : Byte} {s t : State} (h : ByteTaken v s t) :
    t.buf = s.buf ∨ t.buf = Memory.append s.buf v ∨ t.noFrame := by
  cases h with
  | stored _ _ _ h => exact .inr (.inl (by rw [h]; rfl))
  | crc _ h => exact .inl (by rw [h])
  | dropped _ _ h => exact .inr (.inr (by rw [h]; exact ⟨rfl, rfl, rfl, rfl⟩))
  | ended h => exact .inr (.inr h.noFrame)

theorem ReadTaken.buf_cases {s t : State} (h : ReadTaken s t) :
    t.buf = s.buf ∨ (∃ v, t.buf = Memory.append s.buf v) ∨ t.noFrame := by
  cases h with
  | ceiling _ h => exact .inl (by rw [h]; rfl)
  | byte _ v h =>
    have hbuf := (byteStep_taken h).buf_cases
    rw [request_buf] at hbuf
    exact hbuf.imp_right (Or.imp_left fun e => ⟨v, e⟩)
  | timeout _ h => exact .inl (by rw [h, request_buf])
  | fail _ h => exact .inl (by rw [h, endCall_buf, request_buf])

/-- Settles O6: a byte is appended, or kept apart, or the frame ends; every other step keeps the buffer. -/
theorem bufferOnlyGrowsOrIsCleared : Obligations.BufferOnlyGrowsOrIsCleared := by
  intro s t ⟨hw, _⟩ h
  cases (step_taken h).2 with
  | idle _ h => exact .inl (by rw [h])
  | call _ _ h => exact .inl (by rw [h])
  | read _ h =>
    rcases h.buf_cases with hkept | ⟨v, hgrown⟩ | hcleared
    · exact .inl hkept
    · exact .inr (.inl (read_of_append hw hgrown))
    · exact .inr (.inr hcleared)

/-! ## The status register (R27) -/

theorem eventCode_bits_pos {c : EventCode} (h : c ≠ .none) : 1 ≤ c.bits.toNat := by
  cases c with
  | none => exact absurd rfl h
  | _ => decide

/-- A byte keeps the status, or ends the frame with a code of R27's table other than 0x0. -/
theorem ByteTaken.status_cases {v : Byte} {s t : State} (h : ByteTaken v s t) :
    t.status = s.status ∨ (t.noFrame ∧ 1 ≤ t.status.toNat ∧ t.status.toNat ≤ 10) := by
  cases h with
  | stored _ _ _ h => exact .inl (by rw [h]; rfl)
  | crc _ h => exact .inl (by rw [h])
  | dropped c hc h => exact .inr (by rw [h]; exact ⟨⟨rfl, rfl, rfl, rfl⟩, eventCode_bits_pos hc, eventCode_bits_le c⟩)
  | ended h =>
    refine .inr ⟨h.noFrame, ?_⟩
    rcases h.status_cases with e | e | e | e | e <;> rw [e] <;> decide

theorem ReadTaken.status_cases {s t : State} (h : ReadTaken s t) :
    t.status = s.status ∨ (t.noFrame ∧ 1 ≤ t.status.toNat ∧ t.status.toNat ≤ 10) := by
  cases h with
  | ceiling _ h => exact .inl (by rw [h]; rfl)
  | byte _ v h =>
    have hstatus := (byteStep_taken h).status_cases
    rwa [request_status] at hstatus
  | timeout _ h => exact .inl (by rw [h, request_status])
  | fail _ h => exact .inl (by rw [h, endCall_status, request_status])

/-- Settles O7: of the ways a step can go on, only the end of a frame writes the status. -/
theorem statusIsWrittenOnlyByFrameEvents : Obligations.StatusIsWrittenOnlyByFrameEvents := by
  intro s t h hne
  cases (step_taken h).2 with
  | idle _ h => exact absurd (by rw [h]) hne
  | call _ _ h => exact absurd (by rw [h]) hne
  | read _ h => exact h.status_cases.resolve_left hne

/-! ## The results (R266) -/

/-- From `s` to `t` no result is delivered and the call goes on as it was, or one is and no call is active any more. -/
def deliversAtMostOne (s t : State) : Prop :=
  (t.results = s.results ∧ t.callActive = s.callActive) ∨
    ∃ r, t.results = s.results ++ [r] ∧ t.callActive = false

theorem FrameEnded.deliversAtMostOne {s t : State} (h : FrameEnded s t) : deliversAtMostOne s t := by
  obtain ⟨_, rfl⟩ | ⟨_, _, rfl⟩ | ⟨_, _, rfl⟩ := h
  · exact .inl ⟨rfl, rfl⟩
  · exact .inr ⟨_, rfl, rfl⟩
  · exact .inr ⟨_, rfl, rfl⟩

theorem ByteTaken.deliversAtMostOne {v : Byte} {s t : State} (h : ByteTaken v s t) : deliversAtMostOne s t := by
  cases h with
  | stored _ _ _ h => exact .inl (by rw [h]; exact ⟨rfl, rfl⟩)
  | crc _ h => exact .inl (by rw [h]; exact ⟨rfl, rfl⟩)
  | dropped _ _ h => exact .inl (by rw [h]; exact ⟨rfl, rfl⟩)
  | ended h => exact h.deliversAtMostOne

theorem ReadTaken.deliversAtMostOne {s t : State} (h : ReadTaken s t) : deliversAtMostOne s t := by
  cases h with
  | ceiling _ h => exact .inr ⟨_, by rw [h]; rfl, by rw [h]; rfl⟩
  | byte _ v h =>
    have hbyte := (byteStep_taken h).deliversAtMostOne
    rwa [Machine.deliversAtMostOne, request_results, request_callActive] at hbyte
  | timeout _ h => exact .inl (by rw [h]; exact ⟨request_results s, request_callActive s⟩)
  | fail _ h => exact .inr ⟨_, by rw [h, endCall_results, request_results], by rw [h]; rfl⟩

/-- Settles O10: only a READ delivers, and a READ needs an active call. -/
theorem oneResultEndsTheCall : Obligations.OneResultEndsTheCall := by
  intro s t h
  cases (step_taken h).2 with
  | idle hc h => exact .inl (by simp [h])
  | call hc _ h => exact .inl (by simp [h])
  | read hc h =>
    rcases h.deliversAtMostOne with ⟨hres, hcall⟩ | ⟨r, hres, hcall⟩
    · exact .inl ⟨hres, fun _ => hcall.trans hc⟩
    · exact .inr ⟨r, hres, hc, hcall⟩

/-! ## The queues and the count -/

theorem FrameEnded.queues_eq {s t : State} (h : FrameEnded s t) : t.transport = s.transport ∧ t.host = s.host := by
  obtain ⟨_, rfl⟩ | ⟨_, _, rfl⟩ | ⟨_, _, rfl⟩ := h <;> exact ⟨rfl, rfl⟩

/-- A byte leaves the reader's own fields: the count and both queues. -/
theorem ByteTaken.reader_eq {v : Byte} {s t : State} (h : ByteTaken v s t) :
    t.nRead = s.nRead ∧ t.transport = s.transport ∧ t.host = s.host := by
  cases h with
  | stored _ _ _ h => rw [h]; exact ⟨rfl, rfl, rfl⟩
  | crc _ h => rw [h]; exact ⟨rfl, rfl, rfl⟩
  | dropped _ _ h => rw [h]; exact ⟨rfl, rfl, rfl⟩
  | ended h => exact ⟨h.nRead_eq, h.queues_eq⟩

/-- A READ below the ceiling counts one request, and takes from the transport what the request takes (R263). -/
theorem ReadTaken.reader_eq {s t : State} (h : ReadTaken s t) (hn : s.nRead ≠ s.cfg.maxBytesPerCall) :
    t.nRead = s.nRead + 1 ∧ t.transport = (request s).2.transport ∧ t.host = s.host := by
  cases h with
  | ceiling hn' _ => exact absurd hn' hn
  | byte _ v h =>
    have hbyte := (byteStep_taken h).reader_eq
    rwa [request_nRead, request_host] at hbyte
  | timeout _ h => rw [h]; exact ⟨request_nRead s, rfl, request_host s⟩
  | fail _ h => rw [h]; exact ⟨request_nRead s, rfl, request_host s⟩

theorem answersAreEvents_request {s : State} (h : s.answersAreEvents = true) :
    s.answerIsEvent = true ∧ (request s).2.answersAreEvents = true := by
  unfold State.answersAreEvents State.answerIsEvent at *
  rcases ht : s.transport with _ | ⟨w, rest⟩
  · simp [request_nil ht, ht]
  · simpa [request_cons ht, ht] using h

/-! ## The end of a call (R271) -/

theorem run_succ {s t : State} (h : step s = .next t) (k : Nat) :
    Host.Core.run Sys2Proof.core (k + 1) s = Host.Core.run Sys2Proof.core k t := by
  simp only [Host.Core.run]
  rw [show Sys2Proof.core.step s = .next t from h]

/-- Settles O11, by induction on the reads left: at the ceiling READ ends the call; below it READ is carried out, and
ends the call or leaves it with one read fewer. -/
theorem everyCallEndsWithinItsCeiling : Obligations.EveryCallEndsWithinItsCeiling := by
  intro s hs hfit hi hc hh ha
  induction hleft : s.cfg.maxBytesPerCall - s.nRead generalizing s with
  | zero =>
    have hceil : s.nRead = s.cfg.maxBytesPerCall := by
      obtain ⟨_, _, _, _, _, hle, _⟩ := hs
      omega
    have hstep := (step_in_call hi hh hc).trans (exec_read_at_ceiling hc hceil)
    exact ⟨1, _, le_rfl, run_succ hstep 0, rfl, hceil.le, _, rfl⟩
  | succ left ih =>
    have hn : s.nRead ≠ s.cfg.maxBytesPerCall := by omega
    obtain ⟨hevent, hrest⟩ := answersAreEvents_request ha
    obtain ⟨t, ht⟩ := exec_read_isNext hs hfit hc fun _ => hevent
    have hstep := (step_in_call hi hh hc).trans ht
    have hread := (execRead_taken ht).2
    have hinv := hread.inv hs
    have hcfg := hread.cfg_eq
    obtain ⟨hcount, htransport, hhost⟩ := hread.reader_eq hn
    rcases hread.deliversAtMostOne with ⟨hres, hcall⟩ | ⟨r, hres, hcall⟩
    · obtain ⟨k, u, hk, hrun, hidle, hle, r, hr⟩ := ih t hinv (by rwa [hcfg]) (by rwa [hcfg]) (hcall.trans hc)
        (by unfold State.hostSerialized at *; rwa [hhost])
        (by unfold State.answersAreEvents at *; rwa [htransport]) (by rw [hcfg, hcount]; omega)
      exact ⟨k + 1, u, by omega, (run_succ hstep k).trans hrun, hidle, hcfg ▸ hle, r, by rw [hr, hres]⟩
    · obtain ⟨_, _, _, _, _, hle, _⟩ := hinv
      exact ⟨1, t, by omega, run_succ hstep 0, hcall, hcfg ▸ hle, r, hres⟩

end Sys2Proof.Machine
end

section
/-! SUPPORT. What the byte operations do not read: a relation between states that their reads cannot tell apart and
their writes keep is kept by a byte. The status register and the transport's later answers are two cases of it (10_state
R27; 44_reader R266). -/

namespace Sys2Proof.Machine

/-! ## Related answers -/

/-- Two answers of one kind: related next states, one fault, or one refusal. -/
inductive Related (R : State → State → Prop) : Result → Result → Prop
  | next {s t : State} (h : R s t) : Related R (.next s) (.next t)
  | fault (f : Fault) : Related R (.fault f) (.fault f)
  | refused (r : Refusal) : Related R (.refused r) (.refused r)

theorem Related.andThen {R : State → State → Prop} {a b : Result} {k l : State → Result} (hab : Related R a b)
    (hkl : ∀ s t, R s t → Related R (k s) (l t)) : Related R (andThen a k) (andThen b l) := by
  cases hab with
  | next h => exact hkl _ _ h
  | fault f => exact .fault f
  | refused r => exact .refused r

/-- Related states agree in what the byte operations read, and what these write keeps states related. -/
structure Unread (R : State → State → Prop) : Prop where
  reads {s t : State} (h : R s t) :
    t.phase = s.phase ∧ t.buf = s.buf ∧ t.hdr = s.hdr ∧ t.crcb = s.crcb ∧ t.cfg = s.cfg ∧ t.draw = s.draw
  setPhase {s t : State} (h : R s t) (ph : Phase) : R (s.setPhase ph) (t.setPhase ph)
  push {s t : State} (h : R s t) (v : Byte) : R (s.push v) (t.push v)
  setHdr {s t : State} (h : R s t) (x : Header) : R { s with hdr := x } { t with hdr := x }
  setCrcb {s t : State} (h : R s t) (x : List Byte) : R { s with crcb := x } { t with crcb := x }
  drew {s t : State} (h : R s t) (n : Nat) : R (s.drew n) (t.drew n)
  discarded {s t : State} (h : R s t) (c : EventCode) : R (discarded c s) (discarded c t)
  endCall {s t : State} (h : R s t) (r : FrameResult) : R (s.endCall r) (t.endCall r)

section
variable {R : State → State → Prop} (hR : Unread R) {s t : State} (h : R s t)
include hR h

/-! ## The shared operations -/

theorem memWrite_related (o : Nat) (v : Byte) : Related R (memWrite o v s) (memWrite o v t) := by
  obtain ⟨_, hb, _, _, hc, _⟩ := hR.reads h
  unfold memWrite
  by_cases hg : o = s.buf.length ∧ o < bufCapacity s.cfg
  · rw [if_pos hg, if_pos (by rwa [hb, hc])]
    exact .next (hR.push h v)
  · rw [if_neg hg, if_neg (by rwa [hb, hc])]
    exact .fault _

theorem writeHeaderRegister_related (p : Nat) (v : Byte) :
    Related R (writeHeaderRegister p v s) (writeHeaderRegister p v t) := by
  obtain ⟨_, hb, hh, _⟩ := hR.reads h
  unfold writeHeaderRegister
  rw [show headerAfter p v t.buf t.hdr = headerAfter p v s.buf s.hdr by rw [hb, hh]]
  cases headerAfter p v s.buf s.hdr with
  | none => exact .fault _
  | some x => exact .next (hR.setHdr h x)

theorem readRegister_related {w : Nat} {k l : BitVec w → Result} (r : Option (BitVec w)) (offset : Nat)
    (hkl : ∀ x, Related R (k x) (l x)) : Related R (readRegister r offset s k) (readRegister r offset t l) := by
  obtain ⟨_, _, _, _, _, hd⟩ := hR.reads h
  unfold readRegister
  rw [hd]
  exact (hkl _).andThen fun _ _ h => .next (hR.drew h _)

theorem discard_related (c : EventCode) : Related R (discard c s) (discard c t) := .next (hR.discarded h c)

theorem storePayload_related (r : Nat) (v : Byte) : Related R (storePayload r v s) (storePayload r v t) := by
  obtain ⟨_, _, hh, _⟩ := hR.reads h
  unfold storePayload
  rw [hh]
  refine readRegister_related hR h _ _ fun len => ?_
  split_ifs
  · exact memWrite_related hR h _ _
  · exact .fault _

theorem checkLength_related (ph : Phase) : Related R (checkLength ph s) (checkLength ph t) := by
  obtain ⟨_, _, hh, _, hc, _⟩ := hR.reads h
  unfold checkLength
  rw [hh]
  refine readRegister_related hR h _ _ fun len => ?_
  rw [hc]
  split
  · exact discard_related hR h _
  · exact .next (hR.setPhase h _)

theorem startPayload_related : Related R (startPayload s) (startPayload t) := by
  obtain ⟨_, _, hh, _⟩ := hR.reads h
  unfold startPayload
  rw [hh]
  refine readRegister_related hR h _ _ fun len => ?_
  split_ifs
  · exact .next (hR.setPhase h _)
  · exact .fault _

/-! ## The end of a frame -/

theorem dispatchWith_related {isId : Config → Word16 → Bool}
    {dec : State → Payload → Option (Except DecodeError Record)} (hdec : ∀ p, dec t p = dec s p) (draws : Nat)
    (ok : Bool) : Related R (dispatchWith isId dec draws ok s) (dispatchWith isId dec draws ok t) := by
  obtain ⟨_, hb, hh, _, hc, hd⟩ := hR.reads h
  unfold dispatchWith
  rw [hb, hh, hc, hd]
  refine readRegister_related hR h _ _ fun id => ?_
  split_ifs
  · refine readRegister_related hR h _ _ fun len => ?_
    rw [hdec]
    split
    · exact .fault _
    · exact .next (hR.endCall (hR.discarded h _) _)
    · exact .next (hR.endCall (hR.discarded (hR.drew h _) _) _)
  · exact .refused _

theorem execDispatchUnknown_related (ok : Bool) : Related R (execDispatchUnknown ok s) (execDispatchUnknown ok t) := by
  obtain ⟨_, _, hh, _, hc, _⟩ := hR.reads h
  unfold execDispatchUnknown
  rw [hh, hc]
  refine readRegister_related hR h _ _ fun x => ?_
  split_ifs
  · exact discard_related hR h _
  · exact .refused _

theorem dispatch_related (id : Word16) (ok : Bool) : Related R (dispatch id ok s) (dispatch id ok t) := by
  obtain ⟨_, _, _, _, hc, hd⟩ := hR.reads h
  unfold dispatch
  rw [hc]
  split_ifs
  · exact dispatchWith_related hR h (fun p => by rw [hc, hd]) _ _
  · exact dispatchWith_related hR h (fun p => by rw [hc]) _ _
  · exact dispatchWith_related hR h (fun p => by rw [hc]) _ _
  · exact dispatchWith_related hR h (fun p => by rw [hc]) _ _
  · exact dispatchWith_related hR h (fun p => by rw [hc]) _ _
  · exact execDispatchUnknown_related hR h ok

theorem execFrameEnd_related : Related R (execFrameEnd s) (execFrameEnd t) := by
  obtain ⟨_, hb, hh, hcrc, hc, _⟩ := hR.reads h
  unfold execFrameEnd
  rw [hb, hh, hcrc, hc]
  split
  · exact .refused _
  · simp only
    split_ifs
    · exact readRegister_related hR h _ _ fun id => dispatch_related hR h id _
    · exact discard_related hR h _

/-! ## The byte operations, each in the phase that BYTE_STEP runs it in -/

theorem sync_related {p : Fin 3} (hph : s.phase = .sync p) (v : Byte) :
    Related R (exec (decodeByteOp s.cfg (.sync p) v) s) (exec (decodeByteOp s.cfg (.sync p) v) t) := by
  obtain ⟨hph', _, _, _, hc, _⟩ := hR.reads h
  rw [hph] at hph'
  unfold decodeByteOp
  simp only
  split_ifs with hv hp
  · simp only [exec, execSyncComplete, hph, hph', hc, hp, hv, and_self, if_true]
    exact (memWrite_related hR h _ _).andThen fun _ _ h => .next (hR.setPhase h _)
  · have hlt : p.val < 2 := by omega
    simp only [exec, execSyncMatch, hph, hph', hc, hlt, hv, dif_pos, if_true]
    exact (memWrite_related hR h _ _).andThen fun _ _ h => .next (hR.setPhase h _)
  · simp only [exec, execSyncMismatch, hph, hph', hc, ne_eq, hv, not_false_eq_true, if_true]
    exact discard_related hR h _

theorem header_related {p : HeaderPos} (hph : s.phase = .header p) (v : Byte) :
    Related R (exec (decodeByteOp s.cfg (.header p) v) s) (exec (decodeByteOp s.cfg (.header p) v) t) := by
  obtain ⟨hph', _⟩ := hR.reads h
  rw [hph] at hph'
  unfold decodeByteOp
  simp only
  split_ifs with h3 hv h27
  · simp only [exec, execHdrlenOk, hph, hph', h3, hv, and_self, if_true]
    exact (memWrite_related hR h _ _).andThen fun _ _ h =>
      (writeHeaderRegister_related hR h _ _).andThen fun _ _ h => .next (hR.setPhase h _)
  · simp only [exec, execHdrlenBad, hph, hph', h3, ne_eq, hv, not_false_eq_true, and_self, if_true]
    exact discard_related hR h _
  · simp only [exec, execHdrLast, hph, hph', h27, if_true]
    exact (memWrite_related hR h _ _).andThen fun _ _ h =>
      (writeHeaderRegister_related hR h _ _).andThen fun _ _ h => startPayload_related hR h
  · have hp : 4 ≤ p.val ∧ p.val ≤ 26 := by omega
    simp only [exec, execHdrByte, hph, hph', hp, and_self, dif_pos]
    refine (memWrite_related hR h _ _).andThen fun _ _ h =>
      (writeHeaderRegister_related hR h _ _).andThen fun _ _ h => ?_
    by_cases h9 : p.val = 9
    · rw [if_pos h9, if_pos h9]; exact checkLength_related hR h _
    · rw [if_neg h9, if_neg h9]; exact .next (hR.setPhase h _)

theorem payload_related {r : Remaining} (hph : s.phase = .payload r) (v : Byte) :
    Related R (exec (decodeByteOp s.cfg (.payload r) v) s) (exec (decodeByteOp s.cfg (.payload r) v) t) := by
  obtain ⟨hph', _⟩ := hR.reads h
  rw [hph] at hph'
  unfold decodeByteOp
  simp only
  split_ifs with h1
  · simp only [exec, execPayloadLast, hph, hph', h1, if_true]
    exact (storePayload_related hR h _ _).andThen fun _ _ h => .next (hR.setPhase h _)
  · have h2 : 2 ≤ r.val := by omega
    simp only [exec, execPayloadByte, hph, hph', h2, dif_pos]
    exact (storePayload_related hR h _ _).andThen fun _ _ h => .next (hR.setPhase h _)

theorem crc_related {p : Fin 4} (hph : s.phase = .crc p) (v : Byte) :
    Related R (exec (decodeByteOp s.cfg (.crc p) v) s) (exec (decodeByteOp s.cfg (.crc p) v) t) := by
  obtain ⟨hph', _, _, hcrc, _⟩ := hR.reads h
  rw [hph] at hph'
  unfold decodeByteOp
  simp only
  split_ifs with h3
  · simp only [exec, execCrcLast, hph, hph', h3, if_true, hcrc]
    exact execFrameEnd_related hR (hR.setPhase (hR.setCrcb h (s.crcb ++ [v])) (.crc p))
  · have hlt : p.val < 3 := by omega
    simp only [exec, execCrcByte, hph, hph', hlt, dif_pos, hcrc]
    exact .next (hR.setPhase (hR.setCrcb h (s.crcb ++ [v])) (.crc ⟨p.val + 1, by omega⟩))

theorem byteStep_related (v : Byte) : Related R (byteStep v s) (byteStep v t) := by
  obtain ⟨hph', _, _, _, hc, _⟩ := hR.reads h
  rw [byteStep_eq_exec, byteStep_eq_exec, hph', hc]
  rcases hph : s.phase with p | p | r | p
  · exact sync_related hR h hph v
  · exact header_related hR h hph v
  · exact payload_related hR h hph v
  · exact crc_related hR h hph v

/-- The event that an answer spells, on related states. -/
theorem runEvent_related (w : EventWord) : Related R (runEvent w s) (runEvent w t) := by
  unfold runEvent
  split_ifs
  · exact byteStep_related hR h _
  · exact .next h
  · exact .next (hR.endCall h _)
  · exact .refused _

/-! ## A step -/

/-- READ on related states whose requests are answered alike. -/
theorem execRead_related (hcall : t.callActive = s.callActive) (hn : t.nRead = s.nRead)
    (hreq : (request t).1 = (request s).1 ∧ R (request s).2 (request t).2) :
    Related R (execRead s) (execRead t) := by
  obtain ⟨_, _, _, _, hc, _⟩ := hR.reads h
  unfold execRead
  rw [hcall, hn, hc, hreq.1]
  split_ifs
  · exact .next (hR.endCall h _)
  · exact runEvent_related hR hreq.2 _
  · exact .refused _

/-- A step on related states with one host, whose requests are answered alike and whose calls keep them related. -/
theorem step_related (hcall : t.callActive = s.callActive) (hn : t.nRead = s.nRead) (hh : t.host = s.host)
    (hstart : ∀ rest, R { s with host := rest, callActive := true, nRead := 0 }
      { t with host := rest, callActive := true, nRead := 0 })
    (hreq : (request t).1 = (request s).1 ∧ R (request s).2 (request t).2) : Related R (step s) (step t) := by
  obtain ⟨_, _, _, _, hc, _⟩ := hR.reads h
  have hser : t.hostSerialized = s.hostSerialized := by simp only [State.hostSerialized, hh]
  rcases hi : idsDistinct s.cfg
  · rw [equalMessageIdsAreRefused s hi, equalMessageIdsAreRefused t (by rwa [hc])]
    exact .refused _
  have hi' : idsDistinct t.cfg = true := by rwa [hc]
  rcases ha : s.callActive
  · obtain ⟨hnext, hidle⟩ := step_no_call hi ha
    obtain ⟨hnext', hidle'⟩ := step_no_call hi' (hcall.trans ha)
    rcases hhost : s.host with _ | ⟨call, rest⟩
    · rw [hidle hhost, hidle' (hh.trans hhost)]
      exact .next h
    · rw [(hnext _ _ hhost).2, (hnext' _ _ (hh.trans hhost)).2]
      exact .next (hstart rest)
  rcases hs : s.hostSerialized
  · rw [(reentrantCallIsRefused s ha).2 hi hs, (reentrantCallIsRefused t (hcall.trans ha)).2 hi' (hser.trans hs)]
    exact .refused _
  · rw [step_in_call hi hs ha, step_in_call hi' (hser.trans hs) (hcall.trans ha)]
    exact execRead_related hR h hcall hn hreq

end

/-! ## The status register (R27, 92 D21) -/

/-- `t` is `s` but for the status register. -/
def sameButStatus (s t : State) : Prop := ∃ x, t = { s with status := x }

theorem sameButStatus_unread : Unread sameButStatus where
  reads h := by obtain ⟨_, rfl⟩ := h; exact ⟨rfl, rfl, rfl, rfl, rfl, rfl⟩
  setPhase h _ := by obtain ⟨x, rfl⟩ := h; exact ⟨x, rfl⟩
  push h _ := by obtain ⟨x, rfl⟩ := h; exact ⟨x, rfl⟩
  setHdr h _ := by obtain ⟨x, rfl⟩ := h; exact ⟨x, rfl⟩
  setCrcb h _ := by obtain ⟨x, rfl⟩ := h; exact ⟨x, rfl⟩
  drew h _ := by obtain ⟨x, rfl⟩ := h; exact ⟨x, rfl⟩
  discarded h c := by obtain ⟨_, rfl⟩ := h; exact ⟨c.bits, rfl⟩
  endCall h _ := by obtain ⟨x, rfl⟩ := h; exact ⟨x, rfl⟩

theorem request_sameButStatus (s : State) (x : BitVec 4) :
    (request { s with status := x }).1 = (request s).1 ∧
      sameButStatus (request s).2 (request { s with status := x }).2 := by
  unfold request
  cases s.transport <;> exact ⟨rfl, x, rfl⟩

/-- Settles O8: states that differ in the status register alone are related, and a step keeps them so. -/
theorem statusIsNeverRead : Obligations.StatusIsNeverRead := by
  intro s x
  have hrel := step_related sameButStatus_unread (s := s) ⟨x, rfl⟩ rfl rfl rfl (fun _ => ⟨x, rfl⟩)
    (request_sameButStatus s x)
  generalize step s = a at hrel ⊢
  generalize step { s with status := x } = b at hrel ⊢
  cases hrel with
  | next h => obtain ⟨_, rfl⟩ := h; exact ⟨rfl, rfl, rfl⟩
  | fault _ => exact ⟨rfl, rfl, rfl⟩
  | refused _ => exact ⟨rfl, rfl, rfl⟩

/-! ## The transport's later answers (R266, R342) -/

/-- `t` is `s` with further answers queued behind its own. -/
def queuedBehind (later : List EventWord) (s t : State) : Prop := t = { s with transport := s.transport ++ later }

theorem queuedBehind_unread (later : List EventWord) : Unread (queuedBehind later) where
  reads h := by obtain rfl := h; exact ⟨rfl, rfl, rfl, rfl, rfl, rfl⟩
  setPhase h _ := by obtain rfl := h; rfl
  push h _ := by obtain rfl := h; rfl
  setHdr h _ := by obtain rfl := h; rfl
  setCrcb h _ := by obtain rfl := h; rfl
  drew h _ := by obtain rfl := h; rfl
  discarded h _ := by obtain rfl := h; rfl
  endCall h _ := by obtain rfl := h; rfl

/-- A request that the queue answers takes its first answer, whatever stands behind it (R263). -/
theorem request_queuedBehind {s : State} (later : List EventWord) (h : s.transport ≠ []) :
    (request { s with transport := s.transport ++ later }).1 = (request s).1 ∧
      queuedBehind later (request s).2 (request { s with transport := s.transport ++ later }).2 := by
  obtain ⟨w, rest, ht⟩ := List.exists_cons_of_ne_nil h
  rw [request_cons ht, request_cons (s := { s with transport := s.transport ++ later }) (by rw [ht]; rfl)]
  exact ⟨rfl, rfl⟩

/-- Settles O9: a state and the same state with later answers are related, and a step keeps them so. -/
theorem laterAnswersAreNotRead : Obligations.LaterAnswersAreNotRead := by
  intro s t later hq hstep
  have hrel := step_related (queuedBehind_unread later) (s := s) rfl rfl rfl rfl (fun _ => rfl)
    (request_queuedBehind later hq)
  rw [hstep] at hrel
  generalize step { s with transport := s.transport ++ later } = b at hrel ⊢
  cases hrel with
  | next h => rw [h]

end Sys2Proof.Machine
end

section
/-! SUPPORT. The frame operations where nothing selects them, and on a header bank with unwritten registers (30_encoding
R104; 10_state R25). -/

namespace Sys2Proof.Machine

/-! ## Refusals (R104) -/

theorem exec_read_inactive {s : State} (hc : s.callActive = false) : exec .read s = .refused .notSelected :=
  if_neg (by simp [hc])

/-- FRAME_END compares exactly four bytes (42 R176). -/
theorem wireCrc_eq_none {bytes : List Byte} (h : bytes.length ≠ 4) : wireCrc bytes = none := by
  unfold wireCrc
  split
  · exact absurd rfl h
  · rfl

theorem exec_frameEnd_refused {s : State} (h : s.crcb.length ≠ 4) : exec .frameEnd s = .refused .notSelected := by
  change execFrameEnd s = _
  rw [execFrameEnd, wireCrc_eq_none h]

theorem readRegister_refused {w : Nat} {r : Option (BitVec w)} {offset : Nat} {s : State} {k : BitVec w → Result}
    {x : Refusal} (h : k (registerValue r offset s.draw) = .refused x) : readRegister r offset s k = .refused x := by
  rw [readRegister, h, andThen_refused]

/-- A DISPATCH row's guard fails on a written id that is another, and on a frame that the policy bars (R180, R200). -/
theorem guard_eq_false {isId : Config → Word16 → Bool} {s : State} {ok : Bool}
    (h : (∃ x, s.hdr.messageId = some x ∧ isId s.cfg x = false) ∨ (ok = false ∧ s.cfg.crcPolicy = .strict)) :
    (isId s.cfg (registerValue s.hdr.messageId 4 s.draw) && passesPolicy s.cfg ok) = false := by
  rcases h with ⟨x, hx, hid⟩ | ⟨rfl, hstrict⟩
  · rw [hx, registerValue_some, hid, Bool.false_and]
  · rw [passesPolicy, hstrict, Bool.and_eq_false_iff]
    exact .inr rfl

theorem dispatchWith_refused {isId : Config → Word16 → Bool}
    {dec : State → Payload → Option (Except DecodeError Record)} {draws : Nat} {ok : Bool} {s : State}
    (h : (∃ x, s.hdr.messageId = some x ∧ isId s.cfg x = false) ∨ (ok = false ∧ s.cfg.crcPolicy = .strict)) :
    dispatchWith isId dec draws ok s = .refused .notSelected :=
  readRegister_refused (by rw [guard_eq_false h, if_neg Bool.false_ne_true])

theorem execDispatchUnknown_refused {ok : Bool} {s : State}
    (h : (∃ x, s.hdr.messageId = some x ∧ isUnknownId s.cfg x = false) ∨ (ok = false ∧ s.cfg.crcPolicy = .strict)) :
    execDispatchUnknown ok s = .refused .notSelected :=
  readRegister_refused (by rw [guard_eq_false h, if_neg Bool.false_ne_true])

theorem isUnknownId_eq_false {c : Config} {x : Word16} (h : x = c.msgidBestpos ∨ x = c.msgidBestxyz ∨
    x = c.msgidSatxyz ∨ x = c.msgidTrackstat ∨ x = c.msgidRange) : isUnknownId c x = false := by
  rcases h with rfl | rfl | rfl | rfl | rfl <;> simp [isUnknownId]

/-! ### The DISPATCH rows of the fixed-width records: each its id and its decoder (R200) -/

theorem exec_dispatchBestpos (ok : Bool) (s : State) :
    exec (.dispatchBestpos ok) s = dispatchWith (fun c id => id == c.msgidBestpos)
      (fun t p => asRecord .bestPos (decBestPos t.cfg.layout.bestPos t.draw p)) 3 ok s := rfl

theorem exec_dispatchBestxyz (ok : Bool) (s : State) :
    exec (.dispatchBestxyz ok) s = dispatchWith (fun c id => id == c.msgidBestxyz)
      (fun t p => asRecord .bestXyz (decBestXyz t.cfg.layout.bestXyz p)) 0 ok s := rfl

/-! ## Unwritten registers (R25; log 11) -/

/-- The state in which every register is written with the value that it reads as. -/
def State.allWritten (s : State) : State := { s with hdr := (s.hdr.values s.draw).bank }

@[simp] theorem allWritten_phase (s : State) : s.allWritten.phase = s.phase := rfl
@[simp] theorem allWritten_buf (s : State) : s.allWritten.buf = s.buf := rfl
@[simp] theorem allWritten_crcb (s : State) : s.allWritten.crcb = s.crcb := rfl
@[simp] theorem allWritten_cfg (s : State) : s.allWritten.cfg = s.cfg := rfl
@[simp] theorem allWritten_messageId (s : State) :
    s.allWritten.hdr.messageId = some (registerValue s.hdr.messageId 4 s.draw) := rfl
@[simp] theorem headerRecord_allWritten (s : State) :
    headerRecord s.allWritten.hdr = some (s.hdr.values s.draw) := rfl

theorem values_messageId (h : Header) (draw : Nat) : (h.values draw).messageId = registerValue h.messageId 4 draw := rfl
theorem values_messageLength (h : Header) (draw : Nat) :
    (h.values draw).messageLength = registerValue h.messageLength 8 draw := rfl

/-- The bank's record holds what is written. -/
theorem agrees_values (h : Header) (draw : Nat) : h.agrees (h.values draw) := by
  have holds {w : Nat} (r : Option (BitVec w)) (offset : Nat) (v : BitVec w) (hv : r = some v) :
      registerValue r offset draw = v := by rw [hv, registerValue_some]
  exact ⟨holds _ 3, holds _ 4, holds _ 6, holds _ 7, holds _ 8, holds _ 10, holds _ 12, holds _ 13, holds _ 14,
    holds _ 16, holds _ 20, holds _ 24, holds _ 26⟩

/-- The states differ in the draw counter at most. -/
def differInDrawAtMost (s t : State) : Prop := s.forgetDraw = t.forgetDraw

theorem Related.sameButDraw {a b : Result} (h : Related differInDrawAtMost a b) : sameButDraw a b := by
  cases h with
  | next h => exact ⟨congrArg some h, rfl, rfl⟩
  | fault _ => exact ⟨rfl, rfl, rfl⟩
  | refused _ => exact ⟨rfl, rfl, rfl⟩

/-- A read on the left does what follows it, but for the free value counted. -/
theorem readRegister_differs {w : Nat} {r : Option (BitVec w)} {offset : Nat} {s : State} {k : BitVec w → Result}
    {b : Result} (h : Related differInDrawAtMost (k (registerValue r offset s.draw)) b) :
    Related differInDrawAtMost (readRegister r offset s k) b := by
  unfold readRegister
  generalize k (registerValue r offset s.draw) = a at h
  cases h with
  | next h => exact .next h
  | fault f => exact .fault f
  | refused x => exact .refused x

section
variable (s : State) (ok : Bool)

theorem dispatchWith_allWritten (isId : Config → Word16 → Bool)
    (dec : State → Payload → Option (Except DecodeError Record)) (hdec : ∀ p, dec s.allWritten p = dec s p)
    (draws : Nat) :
    Related differInDrawAtMost (dispatchWith isId dec draws ok s) (dispatchWith isId dec draws ok s.allWritten) := by
  rw [dispatchWith_written (headerRecord_allWritten s), hdec, allWritten_cfg, values_messageId, State.payload,
    values_messageLength, allWritten_buf]
  refine readRegister_differs ?_
  split_ifs
  · refine readRegister_differs ?_
    rcases dec s ⟨s.buf, (registerValue s.hdr.messageLength 8 s.draw).toNat⟩ with _ | e | r
    · exact .fault _
    · exact .next rfl
    · exact .next rfl
  · exact .refused _

theorem execDispatchUnknown_allWritten :
    Related differInDrawAtMost (execDispatchUnknown ok s) (execDispatchUnknown ok s.allWritten) := by
  rw [execDispatchUnknown, execDispatchUnknown, allWritten_messageId, allWritten_cfg, readRegister_some]
  refine readRegister_differs ?_
  split_ifs
  · exact .next rfl
  · exact .refused _

theorem dispatch_allWritten (id : Word16) :
    Related differInDrawAtMost (dispatch id ok s) (dispatch id ok s.allWritten) := by
  rw [dispatch, dispatch, allWritten_cfg]
  split_ifs
  · exact dispatchWith_allWritten s ok _ _ (fun _ => rfl) _
  · exact dispatchWith_allWritten s ok _ _ (fun _ => rfl) _
  · exact dispatchWith_allWritten s ok _ _ (fun _ => rfl) _
  · exact dispatchWith_allWritten s ok _ _ (fun _ => rfl) _
  · exact dispatchWith_allWritten s ok _ _ (fun _ => rfl) _
  · exact execDispatchUnknown_allWritten s ok

theorem execFrameEnd_allWritten : Related differInDrawAtMost (execFrameEnd s) (execFrameEnd s.allWritten) := by
  rcases hw : wireCrc s.crcb with _ | wire
  · simp only [execFrameEnd, allWritten_crcb, hw]
    exact .refused _
  · simp only [execFrameEnd, allWritten_crcb, allWritten_cfg, allWritten_buf, allWritten_messageId, hw, readRegister_some]
    split_ifs
    · exact readRegister_differs (dispatch_allWritten s _ _)
    · exact .next rfl

theorem execCrcLast_allWritten (v : Byte) : Related differInDrawAtMost (execCrcLast v s) (execCrcLast v s.allWritten) := by
  unfold execCrcLast
  rw [allWritten_phase]
  split
  · split_ifs
    · exact execFrameEnd_allWritten { s with crcb := s.crcb ++ [v] }
    · exact .refused _
  · exact .refused _

end

theorem exec_allWritten {i : Instr} (h : endsFrame i = true) (s : State) :
    Related differInDrawAtMost (exec i s) (exec i s.allWritten) := by
  cases i with
  | crcLast v => exact execCrcLast_allWritten s v
  | frameEnd => exact execFrameEnd_allWritten s
  | dispatchBestpos ok =>
    rw [exec_dispatchBestpos, exec_dispatchBestpos]; exact dispatchWith_allWritten s ok _ _ (fun _ => rfl) _
  | dispatchRange ok =>
    rw [exec_dispatchRange, exec_dispatchRange]; exact dispatchWith_allWritten s ok _ _ (fun _ => rfl) _
  | dispatchTrackstat ok =>
    rw [exec_dispatchTrackstat, exec_dispatchTrackstat]; exact dispatchWith_allWritten s ok _ _ (fun _ => rfl) _
  | dispatchBestxyz ok =>
    rw [exec_dispatchBestxyz, exec_dispatchBestxyz]; exact dispatchWith_allWritten s ok _ _ (fun _ => rfl) _
  | dispatchSatxyz ok =>
    rw [exec_dispatchSatxyz, exec_dispatchSatxyz]; exact dispatchWith_allWritten s ok _ _ (fun _ => rfl) _
  | dispatchUnknown ok => exact execDispatchUnknown_allWritten s ok
  | _ => cases h

/-- Settles O31: each guard fails; and an operation that ends a frame reads every register as the record of the bank's
values, whether it is written or not. -/
theorem unselectedFrameOperationsAreRefused : Obligations.UnselectedFrameOperationsAreRefused := by
  refine ⟨fun _ => exec_read_inactive, fun _ => exec_frameEnd_refused, fun s ok => ?guards, fun s i hi => ?unwritten⟩
  case guards =>
    have another {id : Word16} (h : ∃ x, s.hdr.messageId = some x ∧ x ≠ id) :
        ∃ x, s.hdr.messageId = some x ∧ (x == id) = false :=
      h.imp fun _ => And.imp_right beq_eq_false_iff_ne.2
    refine ⟨fun h => ?_, fun h => ?_, fun h => ?_, fun h => ?_, fun h => ?_, fun h => ?_⟩
    · rw [exec_dispatchBestpos]; exact dispatchWith_refused (h.imp_left another)
    · rw [exec_dispatchBestxyz]; exact dispatchWith_refused (h.imp_left another)
    · rw [exec_dispatchSatxyz]; exact dispatchWith_refused (h.imp_left another)
    · rw [exec_dispatchTrackstat]; exact dispatchWith_refused (h.imp_left another)
    · rw [exec_dispatchRange]; exact dispatchWith_refused (h.imp_left another)
    · exact execDispatchUnknown_refused (h.imp_left fun h => h.imp fun _ => And.imp_right isUnknownId_eq_false)
  case unwritten => exact ⟨s.hdr.values s.draw, agrees_values _ _, (exec_allWritten hi s).sameButDraw⟩

end Sys2Proof.Machine
end

section
/-! SUPPORT. The event words, the byte operations that a phase selects and the message ids: decoding and encoding
against each other (30_encoding R100 to R104). -/

namespace Sys2Proof.Machine

/-! ## Event words (R100) -/

/-- An event word is its kind and its low byte. -/
theorem eventWord_kind_low (w : EventWord) : eventWord (eventKind w) (eventLow w) = w := by
  ext i hi
  grind [eventWord, eventKind, eventLow]

theorem eventWord_inj {k l : BitVec 2} {v x : Byte} (h : eventWord k v = eventWord l x) : k = l ∧ v = x :=
  ⟨by rw [← eventKind_eventWord k v, h, eventKind_eventWord], by rw [← eventLow_eventWord k v, h, eventLow_eventWord]⟩

theorem encodeEvent_decodeEvent (w : EventWord) : encodeEvent (decodeEvent w) = some w := by
  have hw := eventWord_kind_low w
  rcases eventKind_cases w with h | h | h | h <;> rw [h] at hw
  · rw [decodeEvent_of_byteKind h]; exact congrArg some hw
  · rw [decodeEvent_of_timeoutKind h]; exact congrArg some hw
  · rw [decodeEvent_of_failKind h]; exact congrArg some hw
  · rw [decodeEvent_of_reservedKind h]; exact congrArg some hw

theorem decodeEvent_wellFormed (w : EventWord) : (decodeEvent w).wellFormed = true := by
  unfold decodeEvent
  split_ifs <;> rfl

/-- Two bytes, the second with two bits, are the event word in 16 bits (log 16). -/
theorem decodeBytes_of_eventWord (w : EventWord) :
    decodeBytes [w.extractLsb' 0 8, (w.extractLsb' 8 2).setWidth 8] = .ok (decodeEvent w) := by
  have hcontainer : (w.extractLsb' 8 2).setWidth 8 ++ w.extractLsb' 0 8 = (w.setWidth 16 : Word16) := by
    ext i hi
    grind
  rw [decodeBytes, hcontainer, Laws.EncodedWord.decodeWord16_setWidth]

theorem decodeBytes_of_highBits {b0 b1 : Byte} (h : b1.extractLsb' 2 6 ≠ 0#6) :
    decodeBytes [b0, b1] = .error .bitsAboveEventWord := by
  have hhigh : (b1 ++ b0 : Word16).extractLsb' 10 6 = b1.extractLsb' 2 6 := by
    ext i hi
    grind
  rw [decodeBytes, decodeWord16, hhigh, if_neg h]

/-- Settles O13: by the four kinds, and by the sixteen bits that two bytes make. -/
theorem eventWordsRoundTrip : Obligations.EventWordsRoundTrip :=
  ⟨fun w => ⟨encodeEvent_decodeEvent w, decodeEvent_wellFormed w, decodeBytes_of_eventWord w⟩,
    fun _ _ => decodeBytes_of_highBits⟩

/-- Settles O17: computed. -/
theorem writtenOutWordsDecode : Obligations.WrittenOutWordsDecode := by
  unfold Obligations.WrittenOutWordsDecode
  decide

/-! ## The operation that a phase and a byte select (R104, R264) -/

/-- The table's row for a byte is selected, and has the byte's event word. -/
theorem decodeByteOp_selected (c : Config) (ph : Phase) (v : Byte) :
    selects c ph (decodeByteOp c ph v) = true ∧ encodeEvent (decodeByteOp c ph v) = some (eventWord 0#2 v) := by
  rcases ph with p | p | r | p <;> simp only [decodeByteOp]
  case sync =>
    split_ifs with hv h2
    · exact ⟨by simp [selects, hv, h2], rfl⟩
    · exact ⟨by simp [selects, hv, show p.val < 2 by omega], rfl⟩
    · exact ⟨by simp [selects, hv], rfl⟩
  case header =>
    split_ifs with h3 hv h27
    · exact ⟨by simp [selects, h3, hv], rfl⟩
    · exact ⟨by simp [selects, h3, hv], rfl⟩
    · exact ⟨by simp [selects, h27], rfl⟩
    · exact ⟨by simp [selects, show 4 ≤ p.val ∧ p.val ≤ 26 by omega], rfl⟩
  case payload =>
    split_ifs with h1
    · exact ⟨by simp [selects, h1], rfl⟩
    · exact ⟨by simp [selects, show 2 ≤ r.val by omega], rfl⟩
  case crc =>
    split_ifs with h3
    · exact ⟨by simp [selects, h3], rfl⟩
    · exact ⟨by simp [selects, show p.val < 3 by omega], rfl⟩

/-- A selected operation is the table's row for its byte. -/
theorem decodeByteOp_of_selects {c : Config} {ph : Phase} {i : Instr} (h : selects c ph i = true) :
    i.wellFormed = true ∧ ∃ v, encodeEvent i = some (eventWord 0#2 v) ∧ decodeByteOp c ph v = i := by
  cases i with
  | syncMatch v =>
    cases ph with
    | sync p =>
      obtain ⟨hp, hv⟩ : p.val < 2 ∧ v = syncByte c p := by simpa [selects] using h
      exact ⟨rfl, v, rfl, (if_pos hv).trans (if_neg hp.ne)⟩
    | _ => cases h
  | syncComplete v =>
    cases ph with
    | sync p =>
      obtain ⟨hp, hv⟩ : p.val = 2 ∧ v = syncByte c p := by simpa [selects] using h
      exact ⟨rfl, v, rfl, (if_pos hv).trans (if_pos hp)⟩
    | _ => cases h
  | syncMismatch v =>
    cases ph with
    | sync p =>
      have hp : v ≠ syncByte c p := by simpa [selects] using h
      exact ⟨rfl, v, rfl, if_neg hp⟩
    | _ => cases h
  | hdrlenOk v =>
    cases ph with
    | header p =>
      obtain ⟨hp, hv⟩ : p.val = 3 ∧ v = 28#8 := by simpa [selects] using h
      exact ⟨beq_iff_eq.2 hv, v, rfl, (if_pos hp).trans (if_pos hv)⟩
    | _ => cases h
  | hdrlenBad v =>
    cases ph with
    | header p =>
      obtain ⟨hp, hv⟩ : p.val = 3 ∧ v ≠ 28#8 := by simpa [selects] using h
      exact ⟨bne_iff_ne.2 hv, v, rfl, (if_pos hp).trans (if_neg hv)⟩
    | _ => cases h
  | hdrByte v =>
    cases ph with
    | header p =>
      have hp : 4 ≤ p.val ∧ p.val ≤ 26 := by simpa [selects] using h
      exact ⟨rfl, v, rfl, (if_neg (by omega)).trans (if_neg (by omega))⟩
    | _ => cases h
  | hdrLast v =>
    cases ph with
    | header p =>
      have hp : p.val = 27 := by simpa [selects] using h
      exact ⟨rfl, v, rfl, (if_neg (by omega)).trans (if_pos hp)⟩
    | _ => cases h
  | payloadByte v =>
    cases ph with
    | payload r =>
      have hp : 2 ≤ r.val := by simpa [selects] using h
      exact ⟨rfl, v, rfl, if_neg (by omega)⟩
    | _ => cases h
  | payloadLast v =>
    cases ph with
    | payload r =>
      have hp : r.val = 1 := by simpa [selects] using h
      exact ⟨rfl, v, rfl, if_pos hp⟩
    | _ => cases h
  | crcByte v =>
    cases ph with
    | crc p =>
      have hp : p.val < 3 := by simpa [selects] using h
      exact ⟨rfl, v, rfl, if_neg hp.ne⟩
    | _ => cases h
  | crcLast v =>
    cases ph with
    | crc p =>
      have hp : p.val = 3 := by simpa [selects] using h
      exact ⟨rfl, v, rfl, if_pos hp⟩
    | _ => cases h
  | _ => cases h

/-- Settles O14: the word is EV_BYTE's, and the general encoder writes it in 16 bits. -/
theorem selectedOperationsDecodeFromTheirWords : Obligations.SelectedOperationsDecodeFromTheirWords := by
  intro c ph i h
  obtain ⟨hwf, v, hword, hop⟩ := decodeByteOp_of_selects h
  refine ⟨hwf, eventWord 0#2 v, hword, ?_, by rw [encode, hword]⟩
  rw [decodeOperation, if_pos (eventKind_eventWord 0#2 v), eventLow_eventWord, hop]

/-- Settles O15: the table's row is selected; a selected operation with the byte's word is the row of that byte. -/
theorem exactlyOneByteOperationIsSelected : Obligations.ExactlyOneByteOperationIsSelected := by
  intro c ph v
  obtain ⟨hsel, hword⟩ := decodeByteOp_selected c ph v
  refine ⟨hsel, hword, fun i hi hv => ?_⟩
  obtain ⟨_, x, hx, rfl⟩ := decodeByteOp_of_selects hi
  rw [hx] at hv
  rw [(eventWord_inj (Option.some.inj hv)).2]

/-! ## Operations that the phase does not select (R104; log 10) -/

theorem execSyncMatch_refused {v : Byte} {s : State} (h : selects s.cfg s.phase (.syncMatch v) = false) :
    execSyncMatch v s = .refused .notSelected := by
  unfold execSyncMatch
  split
  next p hph =>
    have hsel : p.val < 2 → v ≠ syncByte s.cfg p := by simpa [selects, hph] using h
    split_ifs with hp hv
    · exact absurd hv (hsel hp)
    · rfl
    · rfl
  next => rfl

theorem execSyncComplete_refused {v : Byte} {s : State} (h : selects s.cfg s.phase (.syncComplete v) = false) :
    execSyncComplete v s = .refused .notSelected := by
  unfold execSyncComplete
  split
  next hph => exact if_neg (by simpa [selects, hph] using h)
  next => rfl

theorem execSyncMismatch_refused {v : Byte} {s : State} (h : selects s.cfg s.phase (.syncMismatch v) = false) :
    execSyncMismatch v s = .refused .notSelected := by
  unfold execSyncMismatch
  split
  next hph => exact if_neg (by simpa [selects, hph] using h)
  next => rfl

theorem execHdrlenOk_refused {v : Byte} {s : State} (h : selects s.cfg s.phase (.hdrlenOk v) = false) :
    execHdrlenOk v s = .refused .notSelected := by
  unfold execHdrlenOk
  split
  next hph => exact if_neg (by simpa [selects, hph] using h)
  next => rfl

theorem execHdrlenBad_refused {v : Byte} {s : State} (h : selects s.cfg s.phase (.hdrlenBad v) = false) :
    execHdrlenBad v s = .refused .notSelected := by
  unfold execHdrlenBad
  split
  next hph => exact if_neg (by simpa [selects, hph] using h)
  next => rfl

theorem execHdrByte_refused {v : Byte} {s : State} (h : selects s.cfg s.phase (.hdrByte v) = false) :
    execHdrByte v s = .refused .notSelected := by
  unfold execHdrByte
  split
  next hph => exact dif_neg (by simpa [selects, hph] using h)
  next => rfl

theorem execHdrLast_refused {v : Byte} {s : State} (h : selects s.cfg s.phase (.hdrLast v) = false) :
    execHdrLast v s = .refused .notSelected := by
  unfold execHdrLast
  split
  next hph => exact if_neg (by simpa [selects, hph] using h)
  next => rfl

theorem execPayloadByte_refused {v : Byte} {s : State} (h : selects s.cfg s.phase (.payloadByte v) = false) :
    execPayloadByte v s = .refused .notSelected := by
  unfold execPayloadByte
  split
  next hph => exact dif_neg (by simpa [selects, hph] using h)
  next => rfl

theorem execPayloadLast_refused {v : Byte} {s : State} (h : selects s.cfg s.phase (.payloadLast v) = false) :
    execPayloadLast v s = .refused .notSelected := by
  unfold execPayloadLast
  split
  next hph => exact if_neg (by simpa [selects, hph] using h)
  next => rfl

theorem execCrcByte_refused {v : Byte} {s : State} (h : selects s.cfg s.phase (.crcByte v) = false) :
    execCrcByte v s = .refused .notSelected := by
  unfold execCrcByte
  split
  next hph => exact dif_neg (by simpa [selects, hph] using h)
  next => rfl

theorem execCrcLast_refused {v : Byte} {s : State} (h : selects s.cfg s.phase (.crcLast v) = false) :
    execCrcLast v s = .refused .notSelected := by
  unfold execCrcLast
  split
  next hph => exact if_neg (by simpa [selects, hph] using h)
  next => rfl

/-- Settles O30: each byte operation's guard is the condition that selects it; the other rows of EVENT10 are EV_BYTE and
the events of other kinds. -/
theorem unselectedOperationsAreRefused : Obligations.UnselectedOperationsAreRefused := by
  intro s i w hword hkind hne h
  have hkind_of {k : BitVec 2} {v : Byte} (e : some (eventWord k v) = some w) : k = 0#2 := by
    rw [← eventKind_eventWord k v, Option.some.inj e, hkind]
  cases i with
  | syncMatch v => exact execSyncMatch_refused h
  | syncComplete v => exact execSyncComplete_refused h
  | syncMismatch v => exact execSyncMismatch_refused h
  | hdrlenOk v => exact execHdrlenOk_refused h
  | hdrlenBad v => exact execHdrlenBad_refused h
  | hdrByte v => exact execHdrByte_refused h
  | hdrLast v => exact execHdrLast_refused h
  | payloadByte v => exact execPayloadByte_refused h
  | payloadLast v => exact execPayloadLast_refused h
  | crcByte v => exact execCrcByte_refused h
  | crcLast v => exact execCrcLast_refused h
  | evByte v => exact absurd rfl (hne v)
  | evTimeout x => exact absurd (hkind_of hword) (by decide)
  | evFail x => exact absurd (hkind_of hword) (by decide)
  | evReserved x => exact absurd (hkind_of hword) (by decide)
  | _ => cases hword

/-! ## Message ids (R102, R200) -/

/-- With five different ids, each selects its own DISPATCH row. -/
theorem decodeMessageId_own {c : Config} (h : idsDistinct c = true) (ok : Bool) :
    decodeMessageId c c.msgidBestpos ok = .dispatchBestpos ok ∧
      decodeMessageId c c.msgidBestxyz ok = .dispatchBestxyz ok ∧
      decodeMessageId c c.msgidSatxyz ok = .dispatchSatxyz ok ∧
      decodeMessageId c c.msgidTrackstat ok = .dispatchTrackstat ok ∧
      decodeMessageId c c.msgidRange ok = .dispatchRange ok := by
  simp only [idsDistinct, List.nodup_cons, List.mem_cons, List.not_mem_nil, or_false, not_or, not_false_eq_true,
    List.nodup_nil, and_true, decide_eq_true_eq] at h
  obtain ⟨⟨hpr, hpt, hpx, hps⟩, ⟨hrt, hrx, hrs⟩, ⟨htx, hts⟩, hxs⟩ := h
  refine ⟨if_pos rfl, ?_, ?_, ?_, ?_⟩ <;> unfold decodeMessageId
  · rw [if_neg (Ne.symm hpx), if_pos rfl]
  · rw [if_neg (Ne.symm hps), if_neg (Ne.symm hxs), if_pos rfl]
  · rw [if_neg (Ne.symm hpt), if_neg htx, if_neg hts, if_pos rfl]
  · rw [if_neg (Ne.symm hpr), if_neg hrx, if_neg hrs, if_neg hrt, if_pos rfl]

/-- A row with an id is what its id selects, for the crc_ok that it carries. -/
theorem decodeMessageId_of_encodeMessageId {c : Config} (hc : idsDistinct c = true) {i : Instr} {id : Word16}
    (h : encodeMessageId c i = some id) : ∃ ok, i = decodeMessageId c id ok := by
  cases i with
  | dispatchBestpos ok =>
    obtain ⟨hrow, _⟩ := decodeMessageId_own hc ok
    obtain rfl := Option.some.inj h
    exact ⟨ok, hrow.symm⟩
  | dispatchBestxyz ok =>
    obtain ⟨_, hrow, _⟩ := decodeMessageId_own hc ok
    obtain rfl := Option.some.inj h
    exact ⟨ok, hrow.symm⟩
  | dispatchSatxyz ok =>
    obtain ⟨_, _, hrow, _⟩ := decodeMessageId_own hc ok
    obtain rfl := Option.some.inj h
    exact ⟨ok, hrow.symm⟩
  | dispatchTrackstat ok =>
    obtain ⟨_, _, _, hrow, _⟩ := decodeMessageId_own hc ok
    obtain rfl := Option.some.inj h
    exact ⟨ok, hrow.symm⟩
  | dispatchRange ok =>
    obtain ⟨_, _, _, _, hrow⟩ := decodeMessageId_own hc ok
    obtain rfl := Option.some.inj h
    exact ⟨ok, hrow.symm⟩
  | _ => cases h

/-- The row that an id selects has that id, or is the row of the ids that are none of the five. -/
theorem encodeMessageId_decodeMessageId (c : Config) (id : Word16) (ok : Bool) :
    encodeMessageId c (decodeMessageId c id ok) = some id ∨
      decodeMessageId c id ok = .dispatchUnknown ok ∧ isUnknownId c id = true := by
  unfold decodeMessageId
  split_ifs with h1 h2 h3 h4 h5
  · exact .inl (congrArg some h1.symm)
  · exact .inl (congrArg some h2.symm)
  · exact .inl (congrArg some h3.symm)
  · exact .inl (congrArg some h4.symm)
  · exact .inl (congrArg some h5.symm)
  · exact .inr ⟨rfl, by simp [isUnknownId, h1, h2, h3, h4, h5]⟩

/-- Settles O16: R200's tests find each of five different ids at its own row. -/
theorem messageIdsSelectTheirDecoders : Obligations.MessageIdsSelectTheirDecoders := by
  intro c ok hc
  refine ⟨fun i id h => ?_, fun id => encodeMessageId_decodeMessageId c id ok⟩
  obtain ⟨_ | _, hi⟩ := decodeMessageId_of_encodeMessageId hc h
  · exact .inr hi
  · exact .inl hi

end Sys2Proof.Machine
end

section
/-! SUPPORT. A frame fed byte by byte (44_reader R275): after each byte of it the buffer holds the bytes so far and the
bank is the one that they determine. -/

namespace Sys2Proof.Machine

/-! ## The buffer of a byte sequence (R50) -/

theorem memoryOf_fst (bytes : List Byte) : (memoryOf bytes).map Prod.fst = List.range bytes.length := by
  unfold memoryOf
  exact List.map_fst_zip (by simp)

@[simp] theorem memoryOf_length (bytes : List Byte) : (memoryOf bytes).length = bytes.length := by simp [memoryOf]

@[simp] theorem memoryOf_bytes (bytes : List Byte) : Memory.bytes (memoryOf bytes) = bytes := by
  unfold memoryOf Memory.bytes
  exact List.map_snd_zip (by simp)

theorem memoryOf_wf (bytes : List Byte) : Memory.wf (memoryOf bytes) = true := by
  rw [Memory.wf, memoryOf_fst, memoryOf_length, beq_iff_eq]

theorem memoryOf_concat (bytes : List Byte) (v : Byte) :
    memoryOf (bytes ++ [v]) = Memory.append (memoryOf bytes) v := by
  simp [memoryOf, Memory.append, List.range_succ, List.zip_append]

theorem read_memoryOf (bytes : List Byte) (o : Nat) : Memory.read (memoryOf bytes) o = bytes[o]? := by
  rw [memory_read_eq_bytes (memoryOf_wf bytes), memoryOf_bytes]

/-- Two bytes of the sequence are the 16-bit read at the first. -/
theorem read16_memoryOf {bytes : List Byte} {o : Nat} {b0 b1 : Byte} (h0 : bytes[o]? = some b0)
    (h1 : bytes[o + 1]? = some b1) : Memory.read16 (memoryOf bytes) o = some (le16 b0 b1) := by
  simp [Memory.read16, read_memoryOf, h0, h1]

/-! ## Feeding -/

/-- `s` in phase `ph`, holding the bytes and the bank that they determine. -/
def State.holding (s : State) (bytes : List Byte) (ph : Phase) : State :=
  { s with phase := ph, buf := memoryOf bytes, hdr := headerOf (memoryOf bytes), crcb := [] }

@[simp] theorem holding_buf_length (s : State) (bytes : List Byte) (ph : Phase) :
    (s.holding bytes ph).buf.length = bytes.length := memoryOf_length bytes

theorem holding_of_noFrame {s : State} (h : s.noFrame) : s.holding [] (.sync 0) = s := by
  cases s
  obtain ⟨rfl, rfl, rfl, rfl⟩ := h
  rfl

/-- A byte stored, and the bank that the longer sequence determines. -/
theorem holding_push {s : State} {bytes : List Byte} {ph ph' : Phase} {v : Byte} {new : Header}
    (h : new = headerOf (memoryOf (bytes ++ [v]))) :
    { (s.holding bytes ph).push v with hdr := new, phase := ph' } = s.holding (bytes ++ [v]) ph' := by
  subst h
  simp [State.holding, State.push, memoryOf_concat]

/-- A byte fed is the operation that the phase selects for it (R264). -/
theorem feedBytes_cons {v : Byte} {vs : List Byte} {s t : State} {i : Instr} (hi : decodeByteOp s.cfg s.phase v = i)
    (h : exec i s = .next t) : feedBytes (v :: vs) s = feedBytes vs t := by
  have hbyte : exec (.evByte v) s = exec i s := hi ▸ evByteRunsTheSelectedOperation s v
  rw [feedBytes, hbyte, h, andThen_next]

/-! ## The sync bytes and the header length (R141, R142, R144) -/

/-- Within the sync bytes no register is written, before and after. -/
theorem headerOf_memoryOf_sync {bytes : List Byte} {v : Byte} (h : bytes.length ≤ 2) :
    headerOf (memoryOf bytes) = headerOf (memoryOf (bytes ++ [v])) := by
  rw [headerOf_sync (memoryOf_wf _) (by simp; omega), headerOf_sync (memoryOf_wf _) (by simp; omega)]

/-- In the header the register write is the longer sequence's bank (R24, R147, R148). -/
theorem headerAfter_memoryOf {bytes : List Byte} {p : Nat} (v : Byte) (hl : bytes.length = p) (h3 : 3 ≤ p)
    (h27 : p ≤ 27) :
    headerAfter p v (Memory.append (memoryOf bytes) v) (headerOf (memoryOf bytes)) =
      some (headerOf (memoryOf (bytes ++ [v]))) := by
  rw [memoryOf_concat]
  exact headerOf_append_header v (memoryOf_wf bytes) (by simpa using hl) h3 h27

theorem holding_syncMatch {s : State} {bytes : List Byte} {p : Fin 3} {v : Byte} (hp : p.val < 2)
    (hl : bytes.length = p.val) (hv : v = syncByte s.cfg p) :
    exec (.syncMatch v) (s.holding bytes (.sync p)) =
      .next (s.holding (bytes ++ [v]) (.sync ⟨p.val + 1, by omega⟩)) := by
  rw [exec_syncMatch (s := s.holding bytes (.sync p)) hp rfl (by simpa using hl) hv]
  exact congrArg _ (holding_push (headerOf_memoryOf_sync (by omega)))

theorem holding_syncComplete {s : State} {bytes : List Byte} {v : Byte} (hl : bytes.length = 2) (hv : v = s.cfg.sync2) :
    exec (.syncComplete v) (s.holding bytes (.sync 2)) = .next (s.holding (bytes ++ [v]) (.header ⟨3, by decide⟩)) := by
  rw [exec_syncComplete (s := s.holding bytes (.sync 2)) rfl (by simpa using hl) hv]
  exact congrArg _ (holding_push (headerOf_memoryOf_sync (by omega)))

theorem holding_hdrlenOk {s : State} {bytes : List Byte} (hl : bytes.length = 3) :
    exec (.hdrlenOk 28#8) (s.holding bytes (.header ⟨3, by decide⟩)) =
      .next (s.holding (bytes ++ [28#8]) (.header ⟨4, by decide⟩)) := by
  rw [exec_hdrlenOk (s := s.holding bytes (.header ⟨3, by decide⟩)) rfl (by simpa using hl)]
  exact congrArg _ (holding_push (Option.some.inj (headerAfter_memoryOf 28#8 hl (by omega) (by omega))))

/-- The three sync bytes and the length byte 28, arriving where no frame is held. -/
theorem feedBytes_sync (s : State) (more : List Byte) :
    feedBytes (s.cfg.sync0 :: s.cfg.sync1 :: s.cfg.sync2 :: 28#8 :: more) (s.holding [] (.sync 0)) =
      feedBytes more (s.holding [s.cfg.sync0, s.cfg.sync1, s.cfg.sync2, 28#8] (.header ⟨4, by decide⟩)) :=
  calc
    _ = feedBytes (s.cfg.sync1 :: s.cfg.sync2 :: 28#8 :: more) (s.holding [s.cfg.sync0] (.sync 1)) :=
      feedBytes_cons (s := s.holding [] (.sync 0)) (if_pos rfl) (holding_syncMatch (by decide) rfl rfl)
    _ = feedBytes (s.cfg.sync2 :: 28#8 :: more) (s.holding [s.cfg.sync0, s.cfg.sync1] (.sync 2)) :=
      feedBytes_cons (s := s.holding _ (.sync 1)) (if_pos rfl) (holding_syncMatch (by decide) rfl rfl)
    _ = feedBytes (28#8 :: more) (s.holding [s.cfg.sync0, s.cfg.sync1, s.cfg.sync2] (.header ⟨3, by decide⟩)) :=
      feedBytes_cons (s := s.holding _ (.sync 2)) (if_pos rfl) (holding_syncComplete rfl rfl)
    _ = _ := feedBytes_cons (s := s.holding _ (.header ⟨3, by decide⟩)) rfl (holding_hdrlenOk rfl)

/-! ## The other header bytes (R146 to R153) -/

/-- A header byte is stored; the one at offset 9 completes a length that the check lets through. -/
theorem holding_hdrByte {s : State} {bytes : List Byte} {p : HeaderPos} {v : Byte} (hp : 4 ≤ p.val ∧ p.val ≤ 26)
    (hl : bytes.length = p.val)
    (h9 : p.val = 9 → ∀ b, bytes[8]? = some b → lengthError s.cfg (le16 b v) = none) :
    exec (.hdrByte v) (s.holding bytes (.header p)) =
      .next (s.holding (bytes ++ [v]) (.header ⟨p.val + 1, by omega⟩)) := by
  have hafter := headerAfter_memoryOf v hl (by omega) (by omega)
  by_cases e9 : p.val = 9
  · obtain rfl : p = ⟨9, by decide⟩ := Subtype.ext e9
    have h8 : bytes[8]? = some bytes[8] := List.getElem?_eq_getElem (by omega)
    have hm : (headerOf (memoryOf (bytes ++ [v]))).messageLength = some (le16 bytes[8] v) :=
      read16_memoryOf (by simp [hl]) (by simp [hl])
    rw [exec_hdrByte_nine (s := s.holding bytes _) rfl (by simpa using hl) hafter]
    exact (checkLength_eq_next hm).2 (.inr ⟨h9 rfl _ h8, (holding_push rfl).symm⟩)
  · rw [exec_hdrByte (s := s.holding bytes (.header p)) hp rfl e9 (by simpa using hl) hafter, holding_push rfl]

/-- Header bytes up to offset 26, by induction on how many are still to come. -/
theorem feedBytes_header {s : State} {l bytes more : List Byte} {p : HeaderPos} (hp : 4 ≤ p.val)
    (hl : bytes.length = p.val) (hn : p.val + l.length = 27)
    (h9 : ∀ b0 b1, (bytes ++ l)[8]? = some b0 → (bytes ++ l)[9]? = some b1 → lengthError s.cfg (le16 b0 b1) = none) :
    feedBytes (l ++ more) (s.holding bytes (.header p)) =
      feedBytes more (s.holding (bytes ++ l) (.header ⟨27, by decide⟩)) := by
  induction l generalizing bytes p with
  | nil =>
    obtain rfl : p = ⟨27, by decide⟩ := Subtype.ext hn
    simp
  | cons v l ih =>
    have hn' : p.val + (l.length + 1) = 27 := hn
    have hsel : decodeByteOp s.cfg (.header p) v = .hdrByte v :=
      (if_neg (by omega)).trans (if_neg (by omega))
    have hstored : exec (.hdrByte v) (s.holding bytes (.header p)) = _ :=
      holding_hdrByte (by omega) hl fun e9 b hb => h9 b v (by rw [List.getElem?_append_left (by omega), hb])
        (by rw [List.getElem?_append_right (by omega)]; simp [hl, e9])
    rw [List.cons_append, feedBytes_cons hsel hstored,
      ih (bytes := bytes ++ [v]) (Nat.le_succ_of_le hp) (by simp [hl]) (by simp only; omega) (by simpa using h9)]
    simp

/-- The last header byte starts a payload of the length that offsets 8 and 9 hold (R153). -/
theorem holding_hdrLast {s : State} {bytes : List Byte} {v b0 b1 : Byte} (h0 : bytes[8]? = some b0)
    (h1 : bytes[9]? = some b1) (hl : bytes.length = 27) (hpos : 1 ≤ (le16 b0 b1).toNat) :
    exec (.hdrLast v) (s.holding bytes (.header ⟨27, by decide⟩)) =
      .next (s.holding (bytes ++ [v]) (.payload ⟨(le16 b0 b1).toNat, hpos, by omega⟩)) := by
  have hm : (headerOf (memoryOf (bytes ++ [v]))).messageLength = some (le16 b0 b1) :=
    read16_memoryOf (by rw [List.getElem?_append_left (by omega), h0])
      (by rw [List.getElem?_append_left (by omega), h1])
  rw [exec_hdrLast (s := s.holding bytes (.header ⟨27, by decide⟩)) hpos rfl (by simpa using hl)
    (headerAfter_memoryOf v hl (by omega) (by omega)) hm, holding_push rfl]

/-! ## The payload (R171, R172) -/

/-- Past the header the bank stays (R24). -/
theorem headerOf_memoryOf_payload {bytes : List Byte} {v : Byte} (h : 28 ≤ bytes.length) :
    headerOf (memoryOf bytes) = headerOf (memoryOf (bytes ++ [v])) := by
  rw [memoryOf_concat, headerOf_append_payload v (by simpa using h)]

/-- Payload bytes, by induction on how many are still to come; the last one starts the CRC. -/
theorem feedBytes_payload {s : State} {l bytes more : List Byte} {r : Remaining} {len : Word16}
    (hr : r.val = l.length) (h28 : 28 ≤ bytes.length) (hm : (headerOf (memoryOf bytes)).messageLength = some len)
    (hn : bytes.length + l.length = 28 + len.toNat) (hcap : len.toNat ≤ s.cfg.payloadCap) :
    feedBytes (l ++ more) (s.holding bytes (.payload r)) = feedBytes more (s.holding (bytes ++ l) (.crc 0)) := by
  induction l generalizing bytes r with
  | nil => exact absurd r.property.1 (by simp [hr])
  | cons v l ih =>
    rw [List.length_cons] at hr hn
    have hbank := headerOf_memoryOf_payload (v := v) h28
    have hstore : storePayload r.val v (s.holding bytes (.payload r)) = .next ((s.holding bytes (.payload r)).push v) :=
      storePayload_at_end hm r.property.1 (by omega) hcap (by rw [holding_buf_length]; omega)
    have hpush (ph : Phase) : ((s.holding bytes (.payload r)).push v).setPhase ph = s.holding (bytes ++ [v]) ph :=
      holding_push hbank
    rcases l with _ | ⟨x, l⟩
    · have hlast := exec_payloadLast rfl hr hstore
      rw [hpush] at hlast
      exact feedBytes_cons (if_pos hr) hlast
    · have h2 : 2 ≤ r.val := by simp at hr; omega
      have hsel : decodeByteOp s.cfg (.payload r) v = .payloadByte v := if_neg (by omega)
      have hnext := exec_payloadByte rfl h2 hstore
      rw [hpush] at hnext
      rw [List.cons_append, feedBytes_cons hsel hnext,
        ih (bytes := bytes ++ [v]) (by simp only; omega) (by simp; omega) (by rwa [← hbank]) (by simp at hn ⊢; omega)]
      simp

/-! ## The CRC bytes and the end of the frame (R174, R175, R180) -/

/-- Three CRC bytes are kept, and the fourth runs FRAME_END on all four. -/
theorem feedBytes_crc (s : State) (bytes : List Byte) (b0 b1 b2 b3 : Byte) :
    feedBytes [b0, b1, b2, b3] (s.holding bytes (.crc 0)) =
      exec .frameEnd { s.holding bytes (.crc 3) with crcb := [b0, b1, b2, b3] } := by
  have kept (p : Fin 4) (hp : p.val < 3) (crc : List Byte) (v : Byte) (more : List Byte) :
      feedBytes (v :: more) { s.holding bytes (.crc p) with crcb := crc } =
        feedBytes more { s.holding bytes (.crc ⟨p.val + 1, by omega⟩) with crcb := crc ++ [v] } :=
    feedBytes_cons (if_neg hp.ne) (crcBytesAreKeptApart _ p v hp rfl)
  calc
    _ = feedBytes [b3] { s.holding bytes (.crc 3) with crcb := [b0, b1, b2] } :=
      (kept 0 (by decide) [] b0 _).trans ((kept 1 (by decide) _ b1 _).trans (kept 2 (by decide) _ b2 _))
    _ = exec (.evByte b3) { s.holding bytes (.crc 3) with crcb := [b0, b1, b2] } := by
      unfold feedBytes
      cases exec (.evByte b3) { s.holding bytes (.crc 3) with crcb := [b0, b1, b2] } <;> rfl
    _ = exec (.crcLast b3) { s.holding bytes (.crc 3) with crcb := [b0, b1, b2] } :=
      evByteRunsTheSelectedOperation _ _
    _ = _ := exec_crcLast rfl b3

/-- The computed CRC's bytes, most significant first, pass as the wire's (R176 to R179). -/
theorem wireCrc_wireBytes (covered : List Byte) : wireCrc (wireBytes covered) = some (bswap32 (crc32 covered)) :=
  congrArg some (bswap32_eq_le32 _).symm

/-- FRAME_END on the bytes held and their own CRC dispatches with crc_ok (R180). -/
theorem exec_frameEnd_of_match {s : State} {bytes : List Byte} {ph : Phase} {id : Word16}
    (hid : (headerOf (memoryOf bytes)).messageId = some id) :
    exec .frameEnd { s.holding bytes ph with crcb := wireBytes bytes } =
      exec (decodeMessageId s.cfg id true) { s.holding bytes ph with crcb := wireBytes bytes } := by
  have hok : crcOkOf (bswap32 (crc32 bytes)) (Memory.bytes (memoryOf bytes)) = true := by
    rw [memoryOf_bytes, crcOkOf_eq_true]
  have hend := exec_frameEnd_of_passes (s := { s.holding bytes ph with crcb := wireBytes bytes })
    (wireCrc_wireBytes bytes) (Bool.or_eq_true_iff.2 (.inl hok)) hid
  rwa [show crcOkOf _ (Memory.bytes (s.holding bytes ph).buf) = true from hok] at hend

/-- The sync bytes, the length byte and 24 more header bytes with a legal message length lead to the payload (R141 to R153). -/
theorem feedBytes_wholeHeader {s : State} {rest more : List Byte} {l0 l1 : Byte} (hrest : rest.length = 24)
    (h0 : rest[4]? = some l0) (h1 : rest[5]? = some l1) (hpos : 1 ≤ (le16 l0 l1).toNat)
    (hcap : (le16 l0 l1).toNat ≤ s.cfg.payloadCap) :
    feedBytes ([s.cfg.sync0, s.cfg.sync1, s.cfg.sync2, 28#8] ++ rest ++ more) (s.holding [] (.sync 0)) =
      feedBytes more (s.holding ([s.cfg.sync0, s.cfg.sync1, s.cfg.sync2, 28#8] ++ rest)
        (.payload ⟨(le16 l0 l1).toNat, hpos, by omega⟩)) := by
  obtain ⟨l, v, rfl⟩ : ∃ l v, rest = l ++ [v] :=
    ⟨rest.dropLast, rest.getLast (by rintro rfl; simp at hrest), (List.dropLast_append_getLast _).symm⟩
  have hl : l.length = 23 := by simpa using hrest
  rw [List.getElem?_append_left (by omega)] at h0 h1
  have hcheck : lengthError s.cfg (le16 l0 l1) = none := lengthError_eq_none.2 ⟨hpos, hcap⟩
  calc
    _ = feedBytes (l ++ v :: more)
        (s.holding [s.cfg.sync0, s.cfg.sync1, s.cfg.sync2, 28#8] (.header ⟨4, by decide⟩)) := by
      rw [← feedBytes_sync]; simp
    _ = feedBytes (v :: more)
        (s.holding ([s.cfg.sync0, s.cfg.sync1, s.cfg.sync2, 28#8] ++ l) (.header ⟨27, by decide⟩)) :=
      feedBytes_header (by decide) rfl (by simp [hl]) fun b0 b1 hb0 hb1 => by
        obtain rfl : l0 = b0 := Option.some.inj (h0.symm.trans hb0)
        obtain rfl : l1 = b1 := Option.some.inj (h1.symm.trans hb1)
        exact hcheck
    _ = _ := by
      rw [feedBytes_cons (s := s.holding _ (.header ⟨27, by decide⟩)) rfl
        (holding_hdrLast h0 h1 (by simp [hl]) hpos), List.append_assoc]

/-- Settles O12: the header, the payload and the CRC, each from the state that the one before it leaves; the CRC is a
match, so FRAME_END dispatches on the id that offsets 4 and 5 hold. -/
theorem validFrameReachesItsDecoder : Obligations.ValidFrameReachesItsDecoder := by
  intro s rest pay i0 i1 l0 l1 hnone hrest hi0 hi1 hl0 hl1 hlen hpos hcap
  have hm : (headerOf (memoryOf ([s.cfg.sync0, s.cfg.sync1, s.cfg.sync2, 28#8] ++ rest))).messageLength =
    some (le16 l0 l1) := read16_memoryOf hl0 hl1
  have hid : (headerOf (memoryOf (coveredBytes s.cfg rest pay))).messageId = some (le16 i0 i1) :=
    read16_memoryOf ((List.getElem?_append_left (by simp [hrest])).trans hi0)
      ((List.getElem?_append_left (by simp [hrest])).trans hi1)
  calc
    _ = feedBytes (([s.cfg.sync0, s.cfg.sync1, s.cfg.sync2, 28#8] ++ rest) ++
          (pay ++ wireBytes (coveredBytes s.cfg rest pay))) (s.holding [] (.sync 0)) := by
      rw [holding_of_noFrame hnone, coveredBytes, List.append_assoc _ pay]
    _ = feedBytes (pay ++ wireBytes (coveredBytes s.cfg rest pay)) _ :=
      feedBytes_wholeHeader hrest hl0 hl1 (by omega) (by omega)
    _ = feedBytes (wireBytes (coveredBytes s.cfg rest pay)) (s.holding (coveredBytes s.cfg rest pay) (.crc 0)) :=
      feedBytes_payload hlen (by simp [hrest]) hm (by simp [hrest, hlen]) (by omega)
    _ = exec .frameEnd { s.holding (coveredBytes s.cfg rest pay) (.crc 3) with
          crcb := wireBytes (coveredBytes s.cfg rest pay) } := feedBytes_crc s _ _ _ _ _
    _ = _ := exec_frameEnd_of_match hid

end Sys2Proof.Machine
end

section
/-! SUPPORT. What a step runs (44_reader R262, R263, R276), the free answer (R261), and the internal functions (40_crc
R120). -/

namespace Sys2Proof.Machine

/-- Settles O18: with no call active a step is DECODE_NEXT or nothing; in a call it is READ, and READ is the event that
the queue's next answer spells. -/
theorem stepRunsTheDecodedEvent : Obligations.StepRunsTheDecodedEvent := by
  intro s hi
  refine ⟨fun call rest hc hhost => ?call, fun hh => ⟨fun w rest hc hn ht => ?event, step_in_call hi hh,
    fun hc hhost => ?idle⟩⟩
  case call =>
    obtain ⟨hnext, _⟩ := step_no_call hi hc
    exact hnext call rest hhost
  case event =>
    have hstep := step_in_call hi hh hc
    exact ⟨decodeEvent_wellFormed w, hstep.trans (exec_read_of_answer hc hn ht), hstep⟩
  case idle =>
    obtain ⟨_, hidle⟩ := step_no_call hi hc
    exact hidle hhost

/-! ## A placed word (log 20) -/

section
variable (s : State) (nbits : Nat) (w : EventWord)

theorem withFetchWord_eq : s.withFetchWord nbits w.toNat = placeEvent w s := by
  rw [State.withFetchWord, BitVec.ofNat_toNat, BitVec.setWidth_eq]

/-- Placing keeps the message ids: at most the ceiling of the configuration is raised. -/
theorem placeEvent_idsDistinct : idsDistinct (placeEvent w s).cfg = idsDistinct s.cfg := by
  unfold placeEvent
  simp only
  split_ifs <;> rfl

theorem placeEvent_below_ceiling : (placeEvent w s).nRead ≠ (placeEvent w s).cfg.maxBytesPerCall := by
  unfold placeEvent
  by_cases h0 : s.cfg.maxBytesPerCall = 0
  · simp [h0]
  · simp only [h0, if_false]
    split_ifs <;> omega

theorem placeEvent_hostSerialized : (placeEvent w s).hostSerialized = true := by
  unfold placeEvent State.hostSerialized
  rcases s.host with _ | ⟨_ | _, _⟩ <;> rfl

end

/-- A table word of ten bits is laid out in two bytes, which the decoder of fetched words reads (log 16). -/
theorem decodeTableWord_of_eventWord (w : EventWord) : decodeTableWord 16 w.toNat = some (decodeEvent w) := by
  have hlow : BitVec.ofNat 8 w.toNat = w.extractLsb' 0 8 := by
    apply BitVec.eq_of_toNat_eq; simp
  have hhigh : BitVec.ofNat 8 (w.toNat / 256) = (w.extractLsb' 8 2).setWidth 8 := by
    apply BitVec.eq_of_toNat_eq
    simp [Nat.shiftRight_eq_div_pow]
    omega
  have hsmall : ¬ 65536 ≤ w.toNat := by omega
  simp only [decodeTableWord, hlow, hhigh, decodeBytes_of_eventWord, hsmall, if_false, OfNat.ofNat_ne_zero]

/-- Settles O19: the placed state is in a call below its ceiling with the word in front, so the step is READ of it. -/
theorem placedWordIsRunNext : Obligations.PlacedWordIsRunNext := by
  intro s nbits w hi
  have hstep := step_in_call ((placeEvent_idsDistinct s w).trans hi) (placeEvent_hostSerialized s w) rfl
  have hread := exec_read_of_answer (s := placeEvent w s) rfl (placeEvent_below_ceiling s w) rfl
  rw [withFetchWord_eq]
  exact ⟨_, hstep.trans hread, decodeTableWord_of_eventWord w, rfl, rfl, rfl, rfl, rfl, rfl, rfl, rfl⟩

/-! ## A free answer (R261; log 4) -/

/-- Settles O24: the request's answer is the free value's word, which spells the same event. -/
theorem readBeyondTheQueueTakesAFreeAnswer : Obligations.ReadBeyondTheQueueTakesAFreeAnswer := by
  intro s hc hn ht
  change execRead s = _
  rw [execRead_active hc, if_neg hn, runEvent_eq_exec, request_nil ht]
  cases Config.freeAnswer s.draw with
  | byte v =>
    have hword : decodeEvent (encodeTransport (.byte v)) = .evByte v := by
      rw [encodeTransport, decodeEvent_of_byteKind (eventKind_eventWord _ _), eventLow_eventWord]
    rw [hword]
  | timeout =>
    have hword := decodeEvent_of_timeoutKind (eventKind_eventWord 1#2 0#8)
    exact congrArg (exec · _) hword
  | fail =>
    have hword := decodeEvent_of_failKind (eventKind_eventWord 2#2 0#8)
    exact congrArg (exec · _) hword

/-- Settles O26: EV_FAIL is the end of the call with its error. -/
theorem failEndsTheCallAndKeepsTheFrame : Obligations.FailEndsTheCallAndKeepsTheFrame := exec_evFail

/-! ## The internal functions (R120) -/

/-- Settles O53: each is the return of its value. -/
theorem internalFunctionsWriteNoBlockState : Obligations.InternalFunctionsWriteNoBlockState :=
  fun _ => ⟨fun _ => rfl, fun _ => rfl, fun _ => rfl, fun _ _ => rfl⟩

end Sys2Proof.Machine
end

section
/-! SUPPORT. The CRC as eight rounds of a linear map on the register (40_crc R121 to R126), and its bytes on the wire
(42_payload_validate R179). -/

namespace Sys2Proof.Machine

/-! ## The rounds (R121) -/

theorem crcRound_eq (t : Word32) : crcRound t = t >>> 1 ^^^ (if t.getLsbD 0 then crcPoly else 0#32) := by
  unfold crcRound
  split_ifs
  · rfl
  · rw [BitVec.xor_zero]

/-- A round is linear: the polynomial is added once for each operand whose bit 0 is set. -/
theorem crcRound_xor (a b : Word32) : crcRound (a ^^^ b) = crcRound a ^^^ crcRound b := by
  have hpoly : (if (a ^^^ b).getLsbD 0 then crcPoly else 0#32) =
      (if a.getLsbD 0 then crcPoly else 0#32) ^^^ (if b.getLsbD 0 then crcPoly else 0#32) := by
    rw [BitVec.getLsbD_xor]
    cases a.getLsbD 0 <;> cases b.getLsbD 0 <;> simp
  rw [crcRound_eq, crcRound_eq, crcRound_eq, hpoly, BitVec.ushiftRight_xor_distrib]
  ac_rfl

theorem crcRounds_xor (n : Nat) (a b : Word32) : crcRounds n (a ^^^ b) = crcRounds n a ^^^ crcRounds n b := by
  induction n generalizing a b with
  | zero => rfl
  | succ n ih => rw [crcRounds, crcRound_xor, ih]; rfl

/-- Bit 31 of a round's value is the bit that it shifted out, which the polynomial's bit 31 records. -/
theorem crcRound_eq_zero {t : Word32} (h : crcRound t = 0#32) : t = 0#32 := by
  rw [crcRound_eq] at h
  rcases h0 : t.getLsbD 0
  · rw [h0, if_neg Bool.false_ne_true, BitVec.xor_zero] at h
    ext i hi
    rcases i with _ | i
    · simpa using h0
    · have hbit := congrArg (BitVec.getLsbD · i) h
      simpa [Nat.add_comm, BitVec.getLsbD_eq_getElem hi] using hbit
  · rw [h0, if_pos rfl] at h
    have hbit := congrArg (BitVec.getLsbD · 31) h
    simp [crcPoly] at hbit

theorem crcRounds_eq_zero {n : Nat} {t : Word32} (h : crcRounds n t = 0#32) : t = 0#32 := by
  induction n generalizing t with
  | zero => exact h
  | succ n ih => exact crcRound_eq_zero (ih h)

/-- The rounds lose nothing: being linear, they would have to send a difference to 0. -/
theorem crcRounds_injective (n : Nat) : Function.Injective (crcRounds n) := by
  intro a b h
  have hdiff : crcRounds n (a ^^^ b) = 0#32 := by rw [crcRounds_xor, h, BitVec.xor_self]
  exact BitVec.xor_eq_zero_iff.1 (crcRounds_eq_zero hdiff)

/-- While the bits shifted out are 0, a round is a shift. -/
theorem crcRounds_of_low_zero {n : Nat} {t : Word32} (h : ∀ i < n, t.getLsbD i = false) : crcRounds n t = t >>> n := by
  induction n generalizing t with
  | zero => simp [crcRounds]
  | succ n ih =>
    have hround : crcRound t = t >>> 1 := by rw [crcRound, h 0 (by omega), if_neg Bool.false_ne_true]
    rw [crcRounds, hround, ih fun i hi => by simpa using h (1 + i) (by omega), ← BitVec.shiftRight_add, Nat.add_comm]

/-! ## One byte (R122) -/

theorem getLsbD_low_byte (i : Nat) : (0xFF#32).getLsbD i = decide (i < 8) := by
  by_cases hi : i < 32
  · revert i; decide
  · rw [BitVec.getLsbD_of_ge _ _ (by omega), decide_eq_false (by omega)]

/-- A byte is added to the register's low bits, and then eight rounds run: the table holds them for the low byte, and
for the bits above it they are a shift. -/
theorem crcStep_eq (crc : Word32) (b : Byte) : crcStep crc b = crcRounds 8 (crc ^^^ b.setWidth 32) := by
  have hlow (i : Nat) (h8 : i < 8) :
      (crc ^^^ b.setWidth 32 ^^^ (crc ^^^ b.setWidth 32) &&& 0xFF#32).getLsbD i = false := by
    simp only [BitVec.getLsbD_xor, BitVec.getLsbD_and, getLsbD_low_byte, h8, decide_true, Bool.and_true, Bool.xor_self]
  have hhigh : (crc ^^^ b.setWidth 32 ^^^ (crc ^^^ b.setWidth 32) &&& 0xFF#32) >>> 8 = crc >>> 8 := by
    apply BitVec.eq_of_getLsbD_eq
    intro i hi
    have hbyte : (b.setWidth 32).getLsbD (8 + i) = false := by
      rw [BitVec.getLsbD_setWidth, BitVec.getLsbD_of_ge b _ (by omega), Bool.and_false]
    simp only [BitVec.getLsbD_ushiftRight, BitVec.getLsbD_xor, BitVec.getLsbD_and, getLsbD_low_byte, hbyte,
      show ¬ 8 + i < 8 by omega, decide_false, Bool.and_false, Bool.bne_false]
  calc crcStep crc b
      = crcRounds 8 (crc ^^^ b.setWidth 32 ^^^ (crc ^^^ b.setWidth 32) &&& 0xFF#32) ^^^
          crcRounds 8 ((crc ^^^ b.setWidth 32) &&& 0xFF#32) := by rw [crcRounds_of_low_zero hlow, hhigh]; rfl
    _ = crcRounds 8 (crc ^^^ b.setWidth 32) := by
      rw [← crcRounds_xor, BitVec.xor_assoc, BitVec.xor_self, BitVec.xor_zero]

theorem crcStep_xor (r q : Word32) (x y : Byte) : crcStep (r ^^^ q) (x ^^^ y) = crcStep r x ^^^ crcStep q y := by
  rw [crcStep_eq, crcStep_eq, crcStep_eq, ← crcRounds_xor, BitVec.setWidth_xor]
  congr 1
  ac_rfl

theorem crcStep_zero : crcStep 0#32 0#8 = 0#32 := by decide

theorem crcStep_left_injective {r q : Word32} {b : Byte} (h : crcStep r b = crcStep q b) : r = q := by
  rw [crcStep_eq, crcStep_eq] at h
  exact (BitVec.xor_left_inj _).1 (crcRounds_injective 8 h)

theorem crcStep_right_injective {r : Word32} {x y : Byte} (h : crcStep r x = crcStep r y) : x = y := by
  rw [crcStep_eq, crcStep_eq] at h
  have hwide := (BitVec.xor_right_inj _).1 (crcRounds_injective 8 h)
  simpa using congrArg (BitVec.setWidth 8) hwide

/-! ## Byte sequences (R122, R125, R126) -/

theorem foldl_crcStep_xor {a b : List Byte} (h : a.length = b.length) (r q : Word32) :
    (List.zipWith (fun x y => x ^^^ y) a b).foldl crcStep (r ^^^ q) = a.foldl crcStep r ^^^ b.foldl crcStep q := by
  induction a generalizing b r q with
  | nil => obtain rfl := List.length_eq_zero_iff.1 h.symm; rfl
  | cons x a ih =>
    obtain ⟨y, b, rfl⟩ := List.exists_cons_of_length_eq_add_one h.symm
    simp only [List.zipWith_cons_cons, List.foldl_cons, crcStep_xor]
    exact ih (by simpa using h) _ _

theorem foldl_crcStep_zeros (n : Nat) : (List.replicate n 0#8).foldl crcStep 0#32 = 0#32 := by
  induction n with
  | zero => rfl
  | succ n ih => rw [List.replicate_succ, List.foldl_cons, crcStep_zero, ih]

theorem foldl_crcStep_injective {bytes : List Byte} {r q : Word32}
    (h : bytes.foldl crcStep r = bytes.foldl crcStep q) : r = q := by
  induction bytes generalizing r q with
  | nil => exact h
  | cons x bytes ih => exact crcStep_left_injective (ih h)

/-- Settles O58: a step is linear in the register and the byte together, and keeps 0 on a zero byte. -/
theorem crcIsLinear : Obligations.CrcIsLinear := by
  refine ⟨fun a b h => ?_, fun n bytes => ?_⟩
  · exact foldl_crcStep_xor h 0#32 0#32
  · rw [crc32, crcInit, List.foldl_append, foldl_crcStep_zeros]; rfl

theorem flippedBit_ne_zero (j : Fin 8) : 1#8 <<< j.val ≠ 0#8 := by revert j; decide

theorem foldl_crcStep_modify_ne {f : Byte → Byte} (hf : ∀ b, f b ≠ b) {bytes : List Byte} {i : Nat}
    (hi : i < bytes.length) (r : Word32) : (bytes.modify i f).foldl crcStep r ≠ bytes.foldl crcStep r := by
  induction bytes generalizing i r with
  | nil => exact absurd hi (Nat.not_lt_zero _)
  | cons x bytes ih =>
    cases i with
    | zero =>
      rw [List.modify_zero_cons, List.foldl_cons, List.foldl_cons]
      exact fun h => hf x (crcStep_right_injective (foldl_crcStep_injective h))
    | succ i => exact ih (Nat.lt_of_succ_lt_succ hi) _

/-- Settles O59: the registers differ after the changed byte, and no later byte brings them together. -/
theorem crcDetectsEverySingleBit : Obligations.CrcDetectsEverySingleBit := by
  intro bytes i j hi
  refine foldl_crcStep_modify_ne (fun b h => flippedBit_ne_zero j ?_) hi crcInit
  exact (BitVec.xor_right_inj b).1 (h.trans (BitVec.xor_zero).symm)

/-- Settles O57: the corner values are computed; the others are the fold's. -/
theorem crcOfZeroBytesIsZero : Obligations.CrcOfZeroBytesIsZero :=
  ⟨by decide, by decide, by decide, rfl, foldl_crcStep_zeros, fun bytes b => by rw [crc32, List.foldl_append]; rfl⟩

/-! ## The CRC on the wire (R179) -/

theorem le32_inj {a0 a1 a2 a3 b0 b1 b2 b3 : Byte} :
    le32 a0 a1 a2 a3 = le32 b0 b1 b2 b3 ↔ a0 = b0 ∧ a1 = b1 ∧ a2 = b2 ∧ a3 = b3 := by
  refine ⟨fun h => ?_, fun ⟨h0, h1, h2, h3⟩ => by rw [h0, h1, h2, h3]⟩
  obtain ⟨e0, e1, e2, e3⟩ := extractLsb'_le32 a0 a1 a2 a3
  obtain ⟨f0, f1, f2, f3⟩ := extractLsb'_le32 b0 b1 b2 b3
  rw [h] at e0 e1 e2 e3
  exact ⟨e0.symm.trans f0, e1.symm.trans f1, e2.symm.trans f2, e3.symm.trans f3⟩

/-- Settles O42: the byte-reversed CRC is the little-endian word of its bytes from the top down. -/
theorem wireCrcIsMostSignificantByteFirst : Obligations.WireCrcIsMostSignificantByteFirst := by
  intro b0 b1 b2 b3 covered
  rw [crcOkOf_eq_true, bswap32_eq_le32, le32_inj]

end Sys2Proof.Machine
end

section
/-! SUPPORT. Little-endian reads as numbers (20_memory R54 to R58), and the two fixed-width records with the minimum
lengths (43_decoder R203, R204, R210, R215). -/

namespace Sys2Proof.Machine

/-! ## Little-endian numbers (R54) -/

/-- Bits put above others weigh as much as these can count. -/
theorem append_toNat {m n : Nat} (hi : BitVec m) (lo : BitVec n) : (hi ++ lo).toNat = lo.toNat + 2 ^ n * hi.toNat := by
  rw [BitVec.toNat_append, ← Nat.shiftLeft_add_eq_or_of_lt lo.isLt, Nat.shiftLeft_eq]
  ring

theorem le16_toNat (b0 b1 : Byte) : (le16 b0 b1).toNat = b0.toNat + 256 * b1.toNat := by
  have hbytes : le16 b0 b1 = b1 ++ b0 := by
    ext i hi
    grind [le16]
  rw [hbytes]
  exact append_toNat b1 b0

theorem le32_toNat (b0 b1 b2 b3 : Byte) :
    (le32 b0 b1 b2 b3).toNat = b0.toNat + 256 * (b1.toNat + 256 * (b2.toNat + 256 * b3.toNat)) := by
  have hbytes : le32 b0 b1 b2 b3 = b3 ++ (b2 ++ (b1 ++ b0)) := by
    ext i hi
    rw [← BitVec.getLsbD_eq_getElem, getLsbD_le32]
    grind
  rw [hbytes, append_toNat, append_toNat, append_toNat]
  ring

theorem le64_toNat (lo hi : Word32) : (le64 lo hi).toNat = lo.toNat + 2 ^ 32 * hi.toNat := by
  have hwords : le64 lo hi = hi ++ lo := by
    ext i hi
    grind [le64]
  rw [hwords, append_toNat]

theorem leNat_append (xs ys : List Byte) : leNat (xs ++ ys) = leNat xs + 256 ^ xs.length * leNat ys := by
  induction xs with
  | nil => simp [leNat]
  | cons x xs ih => simp only [List.cons_append, leNat, ih, List.length_cons]; ring

theorem leNat_take_succ {bytes : List Byte} {o n : Nat} {b : Byte} (h : bytes[o]? = some b) :
    leNat ((bytes.drop o).take (n + 1)) = b.toNat + 256 * leNat ((bytes.drop (o + 1)).take n) := by
  obtain ⟨ho, rfl⟩ := List.getElem?_eq_some_iff.1 h
  rw [List.drop_eq_getElem_cons ho, List.take_succ_cons, leNat]

theorem leNat_take_zero (bytes : List Byte) : leNat (bytes.take 0) = 0 := by rw [List.take_zero, leNat]

/-! ## Reads of the buffer (R54) -/

section
variable {m : Memory} (hw : Memory.wf m = true) {o : Nat}
include hw

theorem read16_eq_leNat (h : o + 2 ≤ m.length) :
    ∃ v, Memory.read16 m o = some v ∧ v.toNat = leNat (((Memory.bytes m).drop o).take 2) := by
  obtain ⟨b0, b1, h0, h1, hread⟩ := memory_read16_isSome hw h
  rw [memory_read_eq_bytes hw] at h0 h1
  refine ⟨_, hread, ?_⟩
  rw [le16_toNat, leNat_take_succ h0, leNat_take_succ h1, leNat_take_zero, Nat.mul_zero, Nat.add_zero]

theorem read32_eq_leNat (h : o + 4 ≤ m.length) :
    ∃ v, Memory.read32 m o = some v ∧ v.toNat = leNat (((Memory.bytes m).drop o).take 4) := by
  obtain ⟨b0, h0⟩ := memory_read_isSome hw (show o < m.length by omega)
  obtain ⟨b1, h1⟩ := memory_read_isSome hw (show o + 1 < m.length by omega)
  obtain ⟨b2, h2⟩ := memory_read_isSome hw (show o + 2 < m.length by omega)
  obtain ⟨b3, h3⟩ := memory_read_isSome hw (show o + 3 < m.length by omega)
  refine ⟨le32 b0 b1 b2 b3, by simp [Memory.read32, h0, h1, h2, h3], ?_⟩
  rw [memory_read_eq_bytes hw] at h0 h1 h2 h3
  rw [le32_toNat, leNat_take_succ h0, leNat_take_succ h1, leNat_take_succ h2, leNat_take_succ h3, leNat_take_zero,
    Nat.mul_zero, Nat.add_zero]

theorem read64_eq_leNat (h : o + 8 ≤ m.length) :
    ∃ v, Memory.read64 m o = some v ∧ v.toNat = leNat (((Memory.bytes m).drop o).take 8) := by
  obtain ⟨lo, hlo, elo⟩ := read32_eq_leNat hw (o := o) (by omega)
  obtain ⟨hi, hhi, ehi⟩ := read32_eq_leNat hw (o := o + 4) (by omega)
  have hlen : (((Memory.bytes m).drop o).take 4).length = 4 := by simp; omega
  refine ⟨le64 lo hi, by simp [Memory.read64, hlo, hhi], ?_⟩
  have hweight : 256 ^ 4 = 2 ^ 32 := by norm_num
  rw [le64_toNat, elo, ehi, List.take_add (i := 4) (j := 4), leNat_append, hlen, List.drop_drop, hweight]

theorem memory_read64_none (h : m.length < o + 8) : Memory.read64 m o = none := by
  have hhigh : Memory.read32 m (o + 4) = none := memory_read32_none hw (by omega)
  rw [Memory.read64, hhigh]
  cases Memory.read32 m o <;> rfl

end

/-! ## Reads of the payload (R56 to R58) -/

/-- A two's-complement number by its unsigned one (R58). -/
theorem toInt_of_toNat {w n : Nat} {v : BitVec (w + 1)} (h : v.toNat = n) :
    v.toInt = if n < 2 ^ w then (n : Int) else n - 2 ^ (w + 1) := by
  have hhalf : 2 * n < 2 ^ (w + 1) ↔ n < 2 ^ w := by rw [pow_succ']; omega
  rw [BitVec.toInt_eq_toNat_cond, h]
  simp only [hhalf, Nat.cast_pow, Nat.cast_ofNat]

section
variable {p : Payload} (hw : Memory.wf p.mem = true) (hl : p.mem.length = 28 + p.len) {o : Nat}
include hw hl

theorem payU8_eq_leNat (h : o + 1 ≤ p.len) :
    ∃ v, payU8 p o = some v ∧ v.toNat = leNat (((Memory.bytes p.mem).drop (28 + o)).take 1) := by
  obtain ⟨b, hb⟩ := memory_read_isSome hw (show 28 + o < p.mem.length by omega)
  refine ⟨b, by rw [payU8, if_pos h, hb], ?_⟩
  rw [memory_read_eq_bytes hw] at hb
  rw [leNat_take_succ hb, leNat_take_zero, Nat.mul_zero, Nat.add_zero]

theorem payU16_eq_leNat (h : o + 2 ≤ p.len) :
    ∃ v, payU16 p o = some v ∧ v.toNat = leNat (((Memory.bytes p.mem).drop (28 + o)).take 2) := by
  rw [payU16, if_pos h]
  exact read16_eq_leNat hw (by omega)

theorem payU32_eq_leNat (h : o + 4 ≤ p.len) :
    ∃ v, payU32 p o = some v ∧ v.toNat = leNat (((Memory.bytes p.mem).drop (28 + o)).take 4) := by
  rw [payU32, if_pos h]
  exact read32_eq_leNat hw (by omega)

theorem payF64_eq_leNat (h : o + 8 ≤ p.len) :
    ∃ v, payF64 p o = some v ∧ v.toNat = leNat (((Memory.bytes p.mem).drop (28 + o)).take 8) := by
  rw [payF64, if_pos h]
  exact read64_eq_leNat hw (by omega)

end

/-- Settles O52: the buffer's reads are assemblies of its bytes; the payload's are the buffer's 28 addresses on, behind
the test of the length. -/
theorem readsAreLittleEndian : Obligations.ReadsAreLittleEndian := by
  refine ⟨fun m o hw => ⟨memory_read_eq_bytes hw o, read16_eq_leNat hw, read32_eq_leNat hw, read64_eq_leNat hw,
    memory_read16_none hw, memory_read32_none hw, memory_read64_none hw⟩, fun p o hw hl => ?_⟩
  refine ⟨fun h => ?u8, fun h => ?u16, fun h => ?u32, payF64_eq_leNat hw hl, fun h => ?no8, fun h => ?no16,
    fun h => ?no32, fun h => if_neg h.not_ge⟩
  case u8 =>
    obtain ⟨v, hv, hnum⟩ := payU8_eq_leNat hw hl h
    exact ⟨⟨v, hv, hnum⟩, (congrArg (Option.map BitVec.toNat) hv).trans (congrArg some hnum)⟩
  case u16 =>
    obtain ⟨v, hv, hnum⟩ := payU16_eq_leNat hw hl h
    exact ⟨⟨v, hv, hnum⟩, (congrArg (Option.map BitVec.toNat) hv).trans (congrArg some hnum), 
      (congrArg (Option.map BitVec.toInt) hv).trans (congrArg some (toInt_of_toNat hnum))⟩
  case u32 =>
    obtain ⟨v, hv, hnum⟩ := payU32_eq_leNat hw hl h
    exact ⟨⟨v, hv, hv, hnum⟩, (congrArg (Option.map BitVec.toNat) hv).trans (congrArg some hnum), 
      (congrArg (Option.map BitVec.toInt) hv).trans (congrArg some (toInt_of_toNat hnum))⟩
  case no8 =>
    have hnone : payU8 p o = none := if_neg h.not_ge
    exact ⟨hnone, congrArg (Option.map BitVec.toNat) hnone⟩
  case no16 =>
    have hnone : payU16 p o = none := if_neg h.not_ge
    exact ⟨hnone, congrArg (Option.map BitVec.toNat) hnone, congrArg (Option.map BitVec.toInt) hnone⟩
  case no32 =>
    have hnone : payU32 p o = none := if_neg h.not_ge
    exact ⟨hnone, hnone, congrArg (Option.map BitVec.toNat) hnone, congrArg (Option.map BitVec.toInt) hnone⟩

/-! ## The minimum lengths (R94, R204) -/

theorem decBestPos_short {l : BestPosLayout} {k : Nat} {p : Payload} (h : p.len < bestPosMinLen l) :
    decBestPos l k p = some (.error .payloadTooShort) := if_pos h

theorem decBestXyz_short {l : BestXyzLayout} {p : Payload} (h : p.len < bestXyzMinLen l) :
    decBestXyz l p = some (.error .payloadTooShort) := if_pos h

theorem decSatXyz_short {l : SatXyzLayout} {p : Payload} (h : p.len < satXyzMinLen l) :
    decSatXyz l p = some (.error .payloadTooShort) := if_pos h

theorem decTrackStat_short {c : Config} {l : TrackStatLayout} {p : Payload} (h : p.len < trackStatMinLen l) :
    decTrackStat c l p = some (.error .payloadTooShort) := if_pos h

theorem decRange_short {c : Config} {l : RangeLayout} {p : Payload} (h : p.len < rangeMinLen l) :
    decRange c l p = some (.error .payloadTooShort) := if_pos h

/-- Settles O44: the default minima are computed; each decoder begins with its minimum, and DISPATCH raises the error. -/
theorem shortPayloadIsRaised : Obligations.ShortPayloadIsRaised := by
  refine ⟨by decide, fun s h ok hf hp => ?_⟩
  refine ⟨fun hid hm => ?_, fun hid hm => ?_, fun hid hm => ?_, fun hid hm => ?_, fun hid hm => ?_⟩
  · rw [exec_dispatchBestpos]
    exact dispatchWith_of_error (e := .payloadTooShort) hf hp (beq_iff_eq.2 hid)
      (congrArg (asRecord .bestPos) (decBestPos_short hm))
  · rw [exec_dispatchBestxyz]
    exact dispatchWith_of_error (e := .payloadTooShort) hf hp (beq_iff_eq.2 hid)
      (congrArg (asRecord .bestXyz) (decBestXyz_short hm))
  · rw [exec_dispatchSatxyz]
    exact dispatchWith_of_error (e := .payloadTooShort) hf hp (beq_iff_eq.2 hid)
      (congrArg (asRecord .satXyz) (decSatXyz_short hm))
  · rw [exec_dispatchTrackstat]
    exact dispatchWith_of_error (e := .payloadTooShort) hf hp (beq_iff_eq.2 hid)
      (congrArg (asRecord .trackStat) (decTrackStat_short hm))
  · rw [exec_dispatchRange]
    exact dispatchWith_of_error (e := .payloadTooShort) hf hp (beq_iff_eq.2 hid)
      (congrArg (asRecord .range) (decRange_short hm))

/-! ## The fixed-width records (R203, R210, R215) -/

theorem readBestPos_eq_some {l : BestPosLayout} {k : Nat} {p : Payload} {r : BestPos}
    (h : readBestPos l k p = some r) :
    (payUnsigned p l.solutionStatus = some r.solutionStatus ∧ payUnsigned p l.positionType = some r.positionType ∧
      payF64 p l.latitude = some r.latitude ∧ payF64 p l.longitude = some r.longitude ∧
      payF64 p l.altitude = some r.altitude ∧ payF32 p l.stdevLatitude = some r.stdevLatitude ∧
      payF32 p l.stdevLongitude = some r.stdevLongitude ∧ payF32 p l.stdevAltitude = some r.stdevAltitude ∧
      payUnsigned p l.numSatsTracked = some r.numSatsTracked ∧ payUnsigned p l.numSatsUsed = some r.numSatsUsed) ∧
      r.covarLatitude = square64 k r.stdevLatitude ∧ r.covarLongitude = square64 (k + 1) r.stdevLongitude ∧
      r.covarAltitude = square64 (k + 2) r.stdevAltitude := by
  simp only [readBestPos, Option.bind_eq_bind, Option.bind_eq_some_iff, Option.pure_def, Option.some.injEq] at h
  obtain ⟨_, h1, _, h2, _, h3, _, h4, _, h5, _, h6, _, h7, _, h8, _, h9, _, h10, rfl⟩ := h
  exact ⟨⟨h1, h2, h3, h4, h5, h6, h7, h8, h9, h10⟩, rfl, rfl, rfl⟩

theorem readBestXyz_eq_some {l : BestXyzLayout} {p : Payload} {r : BestXyz} (h : readBestXyz l p = some r) :
    payUnsigned p l.positionStatus = some r.positionStatus ∧ payUnsigned p l.positionType = some r.positionType ∧
      payF64 p l.positionX = some r.positionX ∧ payF64 p l.positionY = some r.positionY ∧
      payF64 p l.positionZ = some r.positionZ ∧ payF32 p l.positionSigmaX = some r.positionSigmaX ∧
      payF32 p l.positionSigmaY = some r.positionSigmaY ∧ payF32 p l.positionSigmaZ = some r.positionSigmaZ ∧
      payUnsigned p l.velocityStatus = some r.velocityStatus ∧ payUnsigned p l.velocityType = some r.velocityType ∧
      payF64 p l.velocityX = some r.velocityX ∧ payF64 p l.velocityY = some r.velocityY ∧
      payF64 p l.velocityZ = some r.velocityZ ∧ payF32 p l.velocitySigmaX = some r.velocitySigmaX ∧
      payF32 p l.velocitySigmaY = some r.velocitySigmaY ∧ payF32 p l.velocitySigmaZ = some r.velocitySigmaZ ∧
      payUnsigned p l.numSatsTracked = some r.numSatsTracked ∧ payUnsigned p l.numSatsUsed = some r.numSatsUsed := by
  unfold readBestXyz at h
  obtain ⟨_, h1, h⟩ := Option.bind_eq_some_iff.1 h
  obtain ⟨_, h2, h⟩ := Option.bind_eq_some_iff.1 h
  obtain ⟨_, h3, h⟩ := Option.bind_eq_some_iff.1 h
  obtain ⟨_, h4, h⟩ := Option.bind_eq_some_iff.1 h
  obtain ⟨_, h5, h⟩ := Option.bind_eq_some_iff.1 h
  obtain ⟨_, h6, h⟩ := Option.bind_eq_some_iff.1 h
  obtain ⟨_, h7, h⟩ := Option.bind_eq_some_iff.1 h
  obtain ⟨_, h8, h⟩ := Option.bind_eq_some_iff.1 h
  obtain ⟨_, h9, h⟩ := Option.bind_eq_some_iff.1 h
  obtain ⟨_, h10, h⟩ := Option.bind_eq_some_iff.1 h
  obtain ⟨_, h11, h⟩ := Option.bind_eq_some_iff.1 h
  obtain ⟨_, h12, h⟩ := Option.bind_eq_some_iff.1 h
  obtain ⟨_, h13, h⟩ := Option.bind_eq_some_iff.1 h
  obtain ⟨_, h14, h⟩ := Option.bind_eq_some_iff.1 h
  obtain ⟨_, h15, h⟩ := Option.bind_eq_some_iff.1 h
  obtain ⟨_, h16, h⟩ := Option.bind_eq_some_iff.1 h
  obtain ⟨_, h17, h⟩ := Option.bind_eq_some_iff.1 h
  obtain ⟨_, h18, h⟩ := Option.bind_eq_some_iff.1 h
  obtain rfl := Option.some.inj h
  exact ⟨h1, h2, h3, h4, h5, h6, h7, h8, h9, h10, h11, h12, h13, h14, h15, h16, h17, h18⟩

section
variable {p : Payload} (hw : Memory.wf p.mem = true) (hl : p.mem.length = 28 + p.len)
include hw hl

/-- From the minimum length on, the fields are read and the record is theirs (R204, R205). -/
theorem decBestPos_of_long {l : BestPosLayout} {k : Nat} (hm : bestPosMinLen l ≤ p.len) :
    ∃ r, readBestPos l k p = some r ∧ decBestPos l k p = some (.ok r) := by
  obtain ⟨a, ha⟩ := decBestPos_isSome hw hl l k
  have hread : decBestPos l k p = (readBestPos l k p).map .ok := if_neg hm.not_gt
  obtain ⟨r, hr, rfl⟩ := Option.map_eq_some_iff.1 (hread.symm.trans ha)
  exact ⟨r, hr, ha⟩

theorem decBestXyz_of_long {l : BestXyzLayout} (hm : bestXyzMinLen l ≤ p.len) :
    ∃ r, readBestXyz l p = some r ∧ decBestXyz l p = some (.ok r) := by
  obtain ⟨a, ha⟩ := decBestXyz_isSome hw hl l
  have hread : decBestXyz l p = (readBestXyz l p).map .ok := if_neg hm.not_gt
  obtain ⟨r, hr, rfl⟩ := Option.map_eq_some_iff.1 (hread.symm.trans ha)
  exact ⟨r, hr, ha⟩

end

/-- Settles O46: the fields are read, the squares are the record's, and DISPATCH delivers it. -/
theorem bestPosIsDecoded : Obligations.BestPosIsDecoded := by
  intro s h ok hframe hp hid hm
  have ⟨hw, hr, hl⟩ := hframe
  obtain ⟨r, hread, hd⟩ := decBestPos_of_long (p := s.payload h) (k := s.draw) hw hl hm
  obtain ⟨hfields, hlat, hlong, halt⟩ := readBestPos_eq_some hread
  refine ⟨r, s.frameResult h (.bestPos r) ok, delivers_frameResult hr _ _, rfl, rfl, rfl, hfields, hlat, hlong, halt,
    ?_⟩
  rw [exec_dispatchBestpos]
  exact dispatchWith_of_record hframe hp (beq_iff_eq.2 hid) (congrArg (asRecord .bestPos) hd)

/-- Settles O47: the fields are read, and DISPATCH delivers the record. -/
theorem bestXyzIsDecoded : Obligations.BestXyzIsDecoded := by
  intro s h ok hframe hp hid hm
  have ⟨hw, hr, hl⟩ := hframe
  obtain ⟨r, hread, hd⟩ := decBestXyz_of_long (p := s.payload h) hw hl hm
  refine ⟨r, s.frameResult h (.bestXyz r) ok, delivers_frameResult hr _ _, rfl, rfl, rfl, readBestXyz_eq_some hread, ?_⟩
  rw [exec_dispatchBestxyz]
  exact dispatchWith_of_record hframe hp (beq_iff_eq.2 hid) (congrArg (asRecord .bestXyz) hd)

end Sys2Proof.Machine
end

section
/-! SUPPORT. The covariance square: the fields of both float patterns, and the exponent arithmetic by which the square is
exact (43_decoder R211). -/

namespace Sys2Proof.Machine

/-! ## The fields of a binary32 pattern -/

theorem f32Exponent_le (w : Word32) : f32Exponent w ≤ 255 := Nat.le_of_lt_succ (w.extractLsb' 23 8).isLt

theorem f32Fraction_lt (w : Word32) : f32Fraction w < 2 ^ 23 := (w.extractLsb' 0 23).isLt

/-- A finite pattern's exponent is below the one of infinities and NaNs. -/
theorem f32Exponent_of_finite {w : Word32} (hnan : f32IsNan w = false) (hinf : f32IsInf w = false) :
    f32Exponent w ≤ 254 := by
  have hle := f32Exponent_le w
  have hne : f32Exponent w ≠ 255 := by
    intro h
    by_cases h0 : f32Fraction w = 0
    · simp [f32IsInf, h, h0] at hinf
    · simp [f32IsNan, h, h0] at hnan
  omega

theorem f32Significand_lt (w : Word32) : f32Significand w < 2 ^ 24 := by
  have hlt := f32Fraction_lt w
  unfold f32Significand
  split_ifs <;> omega

/-- The sign bit is in neither field. -/
theorem f32_fields_of_sign (w : Word32) :
    f32Exponent (w ^^^ 0x80000000#32) = f32Exponent w ∧ f32Fraction (w ^^^ 0x80000000#32) = f32Fraction w := by
  have hexponent : (0x80000000#32).extractLsb' 23 8 = 0#8 := by decide
  have hfraction : (0x80000000#32).extractLsb' 0 23 = 0#23 := by decide
  unfold f32Exponent f32Fraction
  rw [BitVec.extractLsb'_xor, BitVec.extractLsb'_xor, hexponent, hfraction, BitVec.xor_zero, BitVec.xor_zero]
  exact ⟨rfl, rfl⟩

theorem square64_of_sign (k : Nat) (w : Word32) : square64 k (w ^^^ 0x80000000#32) = square64 k w := by
  obtain ⟨hexp, hfrac⟩ := f32_fields_of_sign w
  unfold square64 f32IsNan f32IsInf f32Significand
  rw [hexp, hfrac]

/-! ## The fields of a binary64 pattern -/

/-- A pattern put together from a finite exponent and a fraction has these fields, and no sign. -/
theorem f64_fields {e f : Nat} (he : e < 2047) (hf : f < 2 ^ 52) :
    ((BitVec.ofNat 64 (e * 2 ^ 52 + f)).extractLsb' 52 11).toNat = e ∧
      ((BitVec.ofNat 64 (e * 2 ^ 52 + f)).extractLsb' 0 52).toNat = f ∧
      (BitVec.ofNat 64 (e * 2 ^ 52 + f)).msb = false := by
  have hn : (BitVec.ofNat 64 (e * 2 ^ 52 + f)).toNat = e * 2 ^ 52 + f := by
    rw [BitVec.toNat_ofNat, Nat.mod_eq_of_lt (by omega)]
  rw [BitVec.extractLsb'_toNat, BitVec.extractLsb'_toNat, BitVec.msb_eq_decide, hn, Nat.shiftRight_eq_div_pow]
  refine ⟨by omega, by omega, decide_eq_false (by omega)⟩

/-- Every draw's NaN is one: the exponent's bits are all set, and the fraction is the drawn one, never 0. -/
theorem freeNan_isNan (k : Nat) : f64IsNan (freeNan k) = true := by
  have hbits (head : Word64) (hexp : head.extractLsb' 52 11 = BitVec.allOnes 11)
      (hfrac : head.extractLsb' 0 52 = 0#52) :
      f64IsNan (head ||| BitVec.ofNat 64 ((Config.freeNanFraction k).val + 1)) = true := by
    have hdrawn : ((BitVec.ofNat 64 ((Config.freeNanFraction k).val + 1)).extractLsb' 0 52).toNat =
        (Config.freeNanFraction k).val + 1 := by
      have hlt := (Config.freeNanFraction k).isLt
      rw [BitVec.extractLsb'_toNat, BitVec.toNat_ofNat, Nat.shiftRight_zero]
      omega
    rw [f64IsNan, BitVec.extractLsb'_or, BitVec.extractLsb'_or, hexp, hfrac, BitVec.allOnes_or, BitVec.zero_or, hdrawn]
    simp
  unfold freeNan
  split_ifs
  · exact hbits _ (by decide) (by decide)
  · exact hbits _ (by decide) (by decide)

/-! ## The square -/

theorem square64_of_nan {w : Word32} (k : Nat) (h : f32IsNan w = true) : square64 k w = freeNan k := if_pos h

theorem square64_of_inf {w : Word32} (k : Nat) (h : f32IsInf w = true) : square64 k w = 0x7FF0000000000000#64 := by
  have hnan : f32IsNan w = false := by
    simp only [f32IsInf, Bool.and_eq_true, beq_iff_eq] at h
    obtain ⟨_, h0⟩ := h
    simp [f32IsNan, h0]
  rw [square64, if_neg (by simp [hnan]), if_pos h]

theorem square64_of_finite {w : Word32} (k : Nat) (hnan : f32IsNan w = false) (hinf : f32IsInf w = false) :
    square64 k w = if f32Significand w = 0 then 0x0000000000000000#64
      else f64OfSquare (f32Significand w * f32Significand w) (2 * max (f32Exponent w) 1) := by
  rw [square64, if_neg (by simp [hnan]), if_neg (by simp [hinf])]

/-- The pattern of a square: the leading one of `q` is the implicit one, and the fraction is the rest, shifted to it. -/
theorem f64OfSquare_fields {q e2 : Nat} (h0 : q ≠ 0) (hq : q < 2 ^ 48) (he : e2 ≤ 508) :
    ((f64OfSquare q e2).extractLsb' 52 11).toNat = e2 + 723 + Nat.log2 q ∧
      2 ^ 52 + ((f64OfSquare q e2).extractLsb' 0 52).toNat = q * 2 ^ (52 - Nat.log2 q) ∧
      (f64OfSquare q e2).msb = false ∧ Nat.log2 q ≤ 47 := by
  have hlog : Nat.log2 q ≤ 47 := Nat.le_of_lt_succ ((Nat.log2_lt h0).2 hq)
  have hlow : 2 ^ Nat.log2 q ≤ q := Nat.log2_self_le h0
  have hhigh : q < 2 ^ (Nat.log2 q + 1) := Nat.lt_log2_self
  have hsplit : 2 ^ Nat.log2 q * 2 ^ (52 - Nat.log2 q) = 2 ^ 52 := by rw [← pow_add]; congr 1; omega
  have hfrac : (q - 2 ^ Nat.log2 q) * 2 ^ (52 - Nat.log2 q) + 2 ^ 52 = q * 2 ^ (52 - Nat.log2 q) := by
    rw [← hsplit, ← Nat.add_mul, Nat.sub_add_cancel hlow]
  have hlt : (q - 2 ^ Nat.log2 q) * 2 ^ (52 - Nat.log2 q) < 2 ^ 52 := by
    rw [← hsplit]
    exact Nat.mul_lt_mul_of_pos_right (by rw [pow_succ] at hhigh; omega) (by positivity)
  obtain ⟨hexp, hf, hmsb⟩ := f64_fields (e := e2 + 723 + Nat.log2 q) (by omega) hlt
  exact ⟨hexp, by rw [Nat.add_comm, ← hfrac]; exact congrArg (· + 2 ^ 52) hf, hmsb, hlog⟩

/-- The value of the pattern of a square is the number that it was made from. -/
theorem f64Value_f64OfSquare {q e2 : Nat} (h0 : q ≠ 0) (hq : q < 2 ^ 48) (he : e2 ≤ 508) :
    f64IsNan (f64OfSquare q e2) = false ∧ f64Value (f64OfSquare q e2) = q * (2 : ℚ) ^ ((e2 : ℤ) - 300) := by
  obtain ⟨hexp, hfrac, hmsb, hlog⟩ := f64OfSquare_fields h0 hq he
  refine ⟨?_, ?_⟩
  · rw [f64IsNan, hexp, Bool.and_eq_false_iff]
    exact .inl (beq_eq_false_iff_ne.2 (by omega))
  · have hpow : (2 : ℚ) ^ (52 - Nat.log2 q) * (2 : ℚ) ^ (((e2 + 723 + Nat.log2 q : ℕ) : ℤ) - 1075) =
        (2 : ℚ) ^ ((e2 : ℤ) - 300) := by
      rw [← zpow_natCast, ← zpow_add₀ two_ne_zero]
      congr 1
      push_cast [Nat.cast_sub (show Nat.log2 q ≤ 52 by omega)]
      ring
    have hmax : max (((e2 + 723 + Nat.log2 q : ℕ) : ℤ)) 1 = ((e2 + 723 + Nat.log2 q : ℕ) : ℤ) := by omega
    simp only [f64Value, hexp, hfrac, hmsb, hmax, Bool.false_eq_true, if_false, one_mul,
      show e2 + 723 + Nat.log2 q ≠ 0 by omega]
    rw [Nat.cast_mul, Nat.cast_pow, Nat.cast_ofNat, mul_assoc, hpow]

/-- The exact square of a magnitude, on its integer significand. -/
theorem f32Magnitude_mul_self (w : Word32) :
    f32Magnitude w * f32Magnitude w =
      ((f32Significand w * f32Significand w : ℕ) : ℚ) * (2 : ℚ) ^ (((2 * max (f32Exponent w) 1 : ℕ) : ℤ) - 300) := by
  have hpow : (2 : ℚ) ^ (((2 * max (f32Exponent w) 1 : ℕ) : ℤ) - 300) =
      (2 : ℚ) ^ ((max (f32Exponent w) 1 : ℤ) - 150) * (2 : ℚ) ^ ((max (f32Exponent w) 1 : ℤ) - 150) := by
    rw [← zpow_add₀ two_ne_zero]
    congr 1
    push_cast
    ring
  rw [hpow, f32Magnitude]
  push_cast
  ring

/-- For a finite operand the square is a finite number, equal to the exact square of the magnitude (R211). -/
theorem square64_exact {w : Word32} (k : Nat) (hnan : f32IsNan w = false) (hinf : f32IsInf w = false) :
    f64IsNan (square64 k w) = false ∧ f64Value (square64 k w) = f32Magnitude w * f32Magnitude w := by
  rw [square64_of_finite k hnan hinf, f32Magnitude_mul_self]
  split_ifs with h0
  · rw [h0]
    refine ⟨by decide, ?_⟩
    simp [f64Value]
  · have hexp := f32Exponent_of_finite hnan hinf
    have hsig := f32Significand_lt w
    refine f64Value_f64OfSquare (Nat.mul_ne_zero h0 h0) ?_ (by omega)
    calc f32Significand w * f32Significand w < 2 ^ 24 * 2 ^ 24 := Nat.mul_lt_mul'' hsig hsig
      _ = 2 ^ 48 := by norm_num

/-- Settles O54: a NaN, an infinity and a finite operand each by its branch; the sign is in no field that is read. -/
theorem squareIsExact : Obligations.SquareIsExact := by
  refine ⟨fun _ _ => rfl, fun k w => ⟨fun h => ?nan, square64_of_inf k, square64_exact k, fun hsig hexp => ?zero,
    square64_of_sign k w⟩⟩
  case nan => rw [square64_of_nan k h, freeNan_isNan]
  case zero =>
    rw [square64_of_finite k (by simp [f32IsNan, hexp]) (by simp [f32IsInf, hexp]), if_pos hsig]

end Sys2Proof.Machine
end

section
/-! SUPPORT. Unpacking a status word into the bits that a table names, and putting them back (43_decoder R206, R207). -/

namespace Sys2Proof.Machine

/-! ## Unpacking (R206) -/

theorem inWord_iff {e : BitSlice} : BitSlice.inWord e = true ↔ 1 ≤ e.width ∧ e.offset + e.width ≤ 32 :=
  decide_eq_true_iff

/-- A field in the word is the number of its bits. -/
theorem unpackField_toNat {w : Word32} {e : BitSlice} (h : BitSlice.inWord e = true) :
    (unpackField w e).toNat = w.toNat / 2 ^ e.offset % 2 ^ e.width := by
  obtain ⟨_, hfits⟩ := inWord_iff.1 h
  have hle : 2 ^ e.width ≤ 2 ^ 32 := Nat.pow_le_pow_right (by omega) (by omega)
  have hpos : 0 < 2 ^ e.width := by positivity
  rw [unpackField, BitVec.toNat_and, BitVec.toNat_ushiftRight, BitVec.toNat_ofNat, Nat.mod_eq_of_lt (by omega),
    Nat.and_two_pow_sub_one_eq_mod, Nat.shiftRight_eq_div_pow]

/-- Settles O55: the values are the table's entries, one by one. -/
theorem unpackTakesTheNamedBits : Obligations.UnpackTakesTheNamedBits := by
  intro w table i e he hin
  refine ⟨unpackField w e, ?_, unpackField_toNat hin, List.length_map _⟩
  rw [unpack, List.getElem?_map, he]
  rfl

/-! ## Repacking (R207) -/

/-- With different names, a look-up finds the entry's own value. -/
theorem fieldValue_unpack {w : Word32} {table : BitTable} (hn : (table.map BitSlice.name).Nodup) {e : BitSlice}
    (he : e ∈ table) : fieldValue (unpack w table) e.name = some (unpackField w e) := by
  induction table with
  | nil => cases he
  | cons a table ih =>
    rw [List.map_cons, List.nodup_cons] at hn
    obtain ⟨hnew, hn⟩ := hn
    change (if a.name = e.name then some (unpackField w a) else fieldValue (unpack w table) e.name) = _
    rcases List.mem_cons.1 he with rfl | he
    · exact if_pos rfl
    · have hne : a.name ≠ e.name := fun h => hnew (by rw [h]; exact List.mem_map_of_mem he)
      rw [if_neg hne, ih hn he]

/-- Bit `i` of a field put back at its place: the word's own bit where the entry covers it, and 0 elsewhere. -/
theorem getLsbD_unpackField_shiftLeft {w : Word32} {e : BitSlice} {i : Nat} (hi : i < 32) :
    (unpackField w e <<< e.offset).getLsbD i = (decide (e.offset ≤ i ∧ i < e.offset + e.width) && w.getLsbD i) := by
  have hmask (j : Nat) (hj : j < 32) : (BitVec.ofNat 32 (2 ^ e.width - 1)).getLsbD j = decide (j < e.width) := by
    rw [BitVec.getLsbD_ofNat, Nat.testBit_two_pow_sub_one, decide_eq_true hj, Bool.true_and]
  rw [BitVec.getLsbD_shiftLeft, unpackField, BitVec.getLsbD_and, BitVec.getLsbD_ushiftRight, hmask _ (by omega)]
  by_cases hlow : e.offset ≤ i
  · have hwidth : i - e.offset < e.width ↔ i < e.offset + e.width := by omega
    simp [hi, hlow, hwidth, Nat.add_sub_cancel' hlow, Bool.and_comm]
  · simp [hlow, Nat.lt_of_not_le hlow]

/-- The OR over a table has the bits of its terms. -/
theorem getLsbD_foldl_or {table : BitTable} (f : BitSlice → Word32) (acc : Word32) (i : Nat) :
    (table.foldl (fun acc e => acc ||| f e) acc).getLsbD i = (acc.getLsbD i || table.any fun e => (f e).getLsbD i) := by
  induction table generalizing acc with
  | nil => simp
  | cons e table ih => rw [List.foldl_cons, ih, BitVec.getLsbD_or, List.any_cons, Bool.or_assoc]

/-- The bits that a table's entries cover. -/
def coveredBits : BitTable → Finset Nat
  | [] => ∅
  | e :: table => Finset.Ico e.offset (e.offset + e.width) ∪ coveredBits table

theorem mem_coveredBits {table : BitTable} {i : Nat} :
    i ∈ coveredBits table ↔ ∃ e ∈ table, e.offset ≤ i ∧ i < e.offset + e.width := by
  induction table with
  | nil => simp [coveredBits]
  | cons e table ih => simp [coveredBits, ih]

/-- Entries that do not overlap cover as many bits as their widths add up to. -/
theorem card_coveredBits {table : BitTable}
    (h : table.Pairwise fun a b => a.offset + a.width ≤ b.offset ∨ b.offset + b.width ≤ a.offset) :
    (coveredBits table).card = (table.map BitSlice.width).sum := by
  induction table with
  | nil => rfl
  | cons e table ih =>
    rw [List.pairwise_cons] at h
    obtain ⟨happart, hrest⟩ := h
    have hdisjoint : Disjoint (Finset.Ico e.offset (e.offset + e.width)) (coveredBits table) := by
      rw [Finset.disjoint_left]
      intro i hi hcovered
      obtain ⟨b, hb, hlow, hhigh⟩ := mem_coveredBits.1 hcovered
      have hbounds := Finset.mem_Ico.1 hi
      rcases happart b hb with h | h <;> omega
    rw [coveredBits, Finset.card_union_of_disjoint hdisjoint, ih hrest, Nat.card_Ico, List.map_cons, List.sum_cons,
      Nat.add_sub_cancel_left]

theorem partitionsWord_iff {table : BitTable} :
    partitionsWord table = true ↔ (∀ e ∈ table, BitSlice.inWord e = true) ∧ (table.map BitSlice.width).sum = 32 ∧
      (table.Pairwise fun a b => a.offset + a.width ≤ b.offset ∨ b.offset + b.width ≤ a.offset) ∧
      (table.map BitSlice.name).Nodup := by
  simp only [partitionsWord, Bool.and_eq_true, List.all_eq_true, decide_eq_true_eq, and_assoc]

/-- 32 bits without overlap inside a word of 32 are all of them. -/
theorem covered_of_partitions {table : BitTable} (h : partitionsWord table = true) {i : Nat} (hi : i < 32) :
    ∃ e ∈ table, e.offset ≤ i ∧ i < e.offset + e.width := by
  obtain ⟨hin, hsum, hapart, _⟩ := partitionsWord_iff.1 h
  have hsub : coveredBits table ⊆ Finset.range 32 := by
    intro j hj
    obtain ⟨e, he, _, hhigh⟩ := mem_coveredBits.1 hj
    obtain ⟨_, hfits⟩ := inWord_iff.1 (hin e he)
    exact Finset.mem_range.2 (by omega)
  have hall := Finset.eq_of_subset_of_card_le hsub (by rw [card_coveredBits hapart, hsum, Finset.card_range])
  exact mem_coveredBits.1 (hall ▸ Finset.mem_range.2 hi)

theorem repack_unpack {w : Word32} {table : BitTable} (h : partitionsWord table = true) :
    repack (unpack w table) table = w := by
  obtain ⟨_, _, _, hnames⟩ := partitionsWord_iff.1 h
  apply BitVec.eq_of_getLsbD_eq
  intro i hi
  have hterm : ∀ e ∈ table, ((fieldValue (unpack w table) e.name).getD 0 <<< e.offset).getLsbD i =
      (decide (e.offset ≤ i ∧ i < e.offset + e.width) && w.getLsbD i) := fun e he => by
    rw [fieldValue_unpack hnames he, Option.getD_some, getLsbD_unpackField_shiftLeft hi]
  obtain ⟨e, he, hcovers⟩ := covered_of_partitions h hi
  rw [repack, getLsbD_foldl_or]
  rcases hbit : w.getLsbD i
  · have hnone : (table.any fun e => ((fieldValue (unpack w table) e.name).getD 0 <<< e.offset).getLsbD i) = false :=
      List.any_eq_false.2 fun e he => by rw [hterm e he, hbit, Bool.and_false]; exact Bool.false_ne_true
    rw [hnone, Bool.or_false]
    exact BitVec.getLsbD_zero
  · have hone : (table.any fun e => ((fieldValue (unpack w table) e.name).getD 0 <<< e.offset).getLsbD i) = true :=
      List.any_eq_true.2 ⟨e, he, by rw [hterm e he, hbit, Bool.and_true, decide_eq_true hcovers]⟩
    rw [hone, Bool.or_true]

/-- Settles O56: each bit comes back from the entry that covers it, and there is one; the default tables are decided. -/
theorem repackRestoresTheWord : Obligations.RepackRestoresTheWord :=
  ⟨fun _ _ => repack_unpack, by decide, by decide⟩

end Sys2Proof.Machine
end
